-- ==== Sys2Proof/Word.lean ====
section
/-! DEFINITION. The byte and word types of the block: the register file and the bus are 32 bits wide
(10_state R23, 20_memory R61), the buffers hold bytes (10_state R38-R41). All values are unsigned (00_scope R8). -/

namespace Sys2Proof

/-- A byte of a buffer, of a wire format or of an 8-bit register field. -/
abbrev Byte := BitVec 8

/-- A 32-bit register or bus word. -/
abbrev Word := BitVec 32

end Sys2Proof
end

