-- ==== Sys2Proof/Config.lean ====
section
/-! DEFINITION. What an implementation fixes: the parameters of 00_scope R7 and the base address P_BASE
(20_memory R63), and the free values (`any`, 00_scope R11). -/

namespace Sys2Proof

/-- The parameters of one instance of the block: 93_implementation_defined I19 (`P_BASE`) and I20 (the sizes).
The state carries them as plain data that no step changes (log 1, DESIGN CHOICE), so that a statement about every
state holds for every choice of them. -/
structure Config where
  /-- `P_BASE`, the address of offset 0 (20_memory R63). -/
  base : Nat
  /-- `P_SRC_SIZE`. -/
  srcSize : Nat
  /-- `P_DST_SIZE`. -/
  dstSize : Nat
  /-- `P_RXBUF_SIZE`. -/
  rxbufSize : Nat
  /-- `P_SECRET_MIN`. -/
  secretMin : Nat
  /-- `P_SECRET_MAX`. -/
  secretMax : Nat
deriving DecidableEq, Repr

/-- The defaults of 00_scope R7. The spec leaves `P_BASE` open: 0 is the model's (log 1, DESIGN CHOICE). -/
def Config.default : Config where
  base := 0
  srcSize := 65536
  dstSize := 131072
  rxbufSize := 65536
  secretMin := 16
  secretMax := 32

/-- The parameters the rules allow: the buffers fit their windows (20_memory R63), RXBUF holds `MAX_PACKET` bytes
(00_scope R7), AES-128 gets its 16 key bytes and the SECRET store its 32 bytes (00_scope R7, 10_state R38); the
base address is word aligned (log 20). -/
abbrev Config.Legal (c : Config) : Prop :=
  c.base % 4 = 0 ∧ c.srcSize ≤ 65536 ∧ c.dstSize ≤ 131072 ∧ 65535 ≤ c.rxbufSize ∧ c.rxbufSize ≤ 65536 ∧
    16 ≤ c.secretMin ∧ c.secretMin ≤ c.secretMax ∧ c.secretMax ≤ 32

/-- The `n`-th unconstrained word, `any` of 00_scope R11: a host read of something undefined returns (lanes of) one.
No body: nothing can be proved of its value (log 5). -/
opaque Config.freeWord : Nat → Word

end Sys2Proof
end

