-- ==== Sys2Proof/Syntax.lean ====
section
/-! DEFINITION. The instructions: one constructor per row of spec/opcode_table.json, and the port each one's word is
written to (30_encoding R80, R84). -/

namespace Sys2Proof

/-- The registers whose written words are instructions: `CMD`, `RX_CTRL` and `RX_DATA` (10_state R26, R33, R34). -/
inductive Port where
  /-- Offset 0x008: a command word (30_encoding R80). -/
  | cmd
  /-- Offset 0x040: an RX control word (30_encoding R84). -/
  | rxCtrl
  /-- Offset 0x044: an RX byte (30_encoding R84). -/
  | rxData
deriving DecidableEq, Repr

/-- The twelve commands of 30_encoding R82, whose operands stand in registers and buffers (R81), and the four RX
operations of R84 with the bits of their words. -/
inductive Instr where
  /-- `CSUM_CLR`, opcode 0x01 (40_checksum R102). -/
  | csumClr
  /-- `CSUM_ACC`, opcode 0x02 (40_checksum R103). -/
  | csumAcc
  /-- `CSUM_COMPUTE`, opcode 0x03 (40_checksum R104). -/
  | csumCompute
  /-- `CSUM_VERIFY`, opcode 0x04 (40_checksum R105). -/
  | csumVerify
  /-- `FRAME_ENCODE`, opcode 0x10 (41_frame_codec R121). -/
  | frameEncode
  /-- `HDR_PACK`, opcode 0x20 (42_packet_header R163). -/
  | hdrPack
  /-- `HDR_UNPACK`, opcode 0x21 (42_packet_header R164). -/
  | hdrUnpack
  /-- `PKT_PARSE`, opcode 0x22 (42_packet_header R166). -/
  | pktParse
  /-- `CHASH`, opcode 0x30 (43_channel_crypto R181). -/
  | chash
  /-- `ENC_MAC`, opcode 0x31 (43_channel_crypto R186). -/
  | encMac
  /-- `GTXT_BUILD`, opcode 0x40 (44_group_text R201). -/
  | gtxtBuild
  /-- `GTXT_PACKET`, opcode 0x41 (44_group_text R203). -/
  | gtxtPacket
  /-- `RX_BYTE`: `RX_DATA` bits 7:0 are the stream byte, bits 31:8 are ignored (41_frame_codec R124-R131). -/
  | rxByte (x : Byte) (ignored : BitVec 24)
  /-- `RX_ACK`: `RX_CTRL` with ACK = 1, RST = 0 and EOS as given (41_frame_codec R134, R136). -/
  | rxAck (eos : Bool) (ignored : BitVec 29)
  /-- `RX_EOS`: `RX_CTRL` with EOS = 1, RST = 0 and ACK as given (41_frame_codec R133, R136). -/
  | rxEos (ack : Bool) (ignored : BitVec 29)
  /-- `RX_RST`: `RX_CTRL` with RST = 1 and the other two bits as given (41_frame_codec R135, R136). -/
  | rxRst (ack eos : Bool) (ignored : BitVec 29)
deriving DecidableEq, Repr

end Sys2Proof
end

