-- ==== Sys2Proof/WellFormed.lean ====
section
/-! DEFINITION. Which instructions stand for words. Field widths are in the types; the one check is that an
`RX_CTRL` word with ACK = 1 and EOS = 1, which matches both the RX_ACK and the RX_EOS row (30_encoding R84), has one
form, the one that names the action done first (41_frame_codec R136; log 8). -/

namespace Sys2Proof

/-- The form the decoder answers with: `rxEos` only with ACK = 0. -/
def Instr.wellFormed : Instr → Bool
  | .csumClr => true
  | .csumAcc => true
  | .csumCompute => true
  | .csumVerify => true
  | .frameEncode => true
  | .hdrPack => true
  | .hdrUnpack => true
  | .pktParse => true
  | .chash => true
  | .encMac => true
  | .gtxtBuild => true
  | .gtxtPacket => true
  | .rxByte _ _ => true
  | .rxAck _ _ => true
  | .rxEos ack _ => !ack
  | .rxRst _ _ _ => true

end Sys2Proof
end

