-- ==== Sys2Proof/Decode.lean ====
section
/-! DEFINITION. Decoding of the words a host writes to the three ports (30_encoding R80-R84), the encoder, and the
table's own numbering of an instruction's bits (`decodeTableWord`). -/

namespace Sys2Proof

/-- Why a word is no instruction. The first two make a command complete with `EncodingError` (30_encoding R83); the
third is the `RX_CTRL` word without an action bit, which has no effect (R84). -/
inductive DecodeError where
  | rsvdBits
  | illegalOpcode
  | noAction
deriving DecidableEq, Repr

/-- What the decoder answers. -/
inductive Decoded where
  | instr (i : Instr)
  | reject (e : DecodeError)
deriving DecidableEq, Repr

/-- `OPCODE`, bits 7:0 of a command word (30_encoding R80). -/
def opcodeOf (w : Word) : Byte := w.extractLsb' 0 8

/-- `RSVD`, bits 31:8 of a command word (30_encoding R80). -/
def rsvdOf (w : Word) : BitVec 24 := w.extractLsb' 8 24

/-- The opcode map of 30_encoding R82. -/
def opcodeMap : List (Byte × Instr) :=
  [(0x01, .csumClr), (0x02, .csumAcc), (0x03, .csumCompute), (0x04, .csumVerify),
   (0x10, .frameEncode),
   (0x20, .hdrPack), (0x21, .hdrUnpack), (0x22, .pktParse),
   (0x30, .chash), (0x31, .encMac),
   (0x40, .gtxtBuild), (0x41, .gtxtPacket)]

/-- A word written to `CMD`: the reserved bits are looked at before the opcode (30_encoding R83, 60_exceptions R262). -/
def decodeCmd (w : Word) : Decoded :=
  if rsvdOf w ≠ 0 then .reject .rsvdBits
  else
    match opcodeMap.lookup (opcodeOf w) with
    | some i => .instr i
    | none => .reject .illegalOpcode

/-- A word written to `RX_CTRL`: RST wins; ACK with EOS is one write that acts twice (30_encoding R84,
41_frame_codec R136; log 8). -/
def decodeRxCtrl (w : Word) : Decoded :=
  let ack := w.getLsbD 0
  let eos := w.getLsbD 1
  let ignored := w.extractLsb' 3 29
  if w.getLsbD 2 then .instr (.rxRst ack eos ignored)
  else if ack then .instr (.rxAck eos ignored)
  else if eos then .instr (.rxEos false ignored)
  else .reject .noAction

/-- A word written to `RX_DATA`: every word delivers a byte (10_state R34). -/
def decodeRxData (w : Word) : Decoded :=
  .instr (.rxByte (w.extractLsb' 0 8) (w.extractLsb' 8 24))

/-- The decoder: total on every word of every port. -/
def decode (p : Port) (w : Word) : Decoded :=
  match p with
  | .cmd => decodeCmd w
  | .rxCtrl => decodeRxCtrl w
  | .rxData => decodeRxData w

/-- Format C with RSVD = 0 (30_encoding R80). -/
def cmdWord (opcode : Byte) : Word := (0 : BitVec 24) ++ opcode

/-- An `RX_CTRL` word from its fields (10_state R33). -/
def rxCtrlWord (ignored : BitVec 29) (rst eos ack : Bool) : Word :=
  ignored ++ BitVec.ofBool rst ++ BitVec.ofBool eos ++ BitVec.ofBool ack

/-- The port and the word of an instruction (30_encoding R82, R84). -/
def encode : Instr → Port × Word
  | .csumClr => (.cmd, cmdWord 0x01)
  | .csumAcc => (.cmd, cmdWord 0x02)
  | .csumCompute => (.cmd, cmdWord 0x03)
  | .csumVerify => (.cmd, cmdWord 0x04)
  | .frameEncode => (.cmd, cmdWord 0x10)
  | .hdrPack => (.cmd, cmdWord 0x20)
  | .hdrUnpack => (.cmd, cmdWord 0x21)
  | .pktParse => (.cmd, cmdWord 0x22)
  | .chash => (.cmd, cmdWord 0x30)
  | .encMac => (.cmd, cmdWord 0x31)
  | .gtxtBuild => (.cmd, cmdWord 0x40)
  | .gtxtPacket => (.cmd, cmdWord 0x41)
  | .rxByte x ignored => (.rxData, ignored ++ x)
  | .rxAck eos ignored => (.rxCtrl, rxCtrlWord ignored false eos true)
  | .rxEos ack ignored => (.rxCtrl, rxCtrlWord ignored false true ack)
  | .rxRst ack eos ignored => (.rxCtrl, rxCtrlWord ignored true eos ack)

/-- The mask and match of the instruction's row in spec/opcode_table.json. -/
def tableRow : Instr → Word × Word
  | .csumClr => (0xFFFFFFFF, 0x00000001)
  | .csumAcc => (0xFFFFFFFF, 0x00000002)
  | .csumCompute => (0xFFFFFFFF, 0x00000003)
  | .csumVerify => (0xFFFFFFFF, 0x00000004)
  | .frameEncode => (0xFFFFFFFF, 0x00000010)
  | .hdrPack => (0xFFFFFFFF, 0x00000020)
  | .hdrUnpack => (0xFFFFFFFF, 0x00000021)
  | .pktParse => (0xFFFFFFFF, 0x00000022)
  | .chash => (0xFFFFFFFF, 0x00000030)
  | .encMac => (0xFFFFFFFF, 0x00000031)
  | .gtxtBuild => (0xFFFFFFFF, 0x00000040)
  | .gtxtPacket => (0xFFFFFFFF, 0x00000041)
  | .rxByte _ _ => (0x00000000, 0x00000000)
  | .rxAck _ _ => (0x00000005, 0x00000001)
  | .rxEos _ _ => (0x00000006, 0x00000002)
  | .rxRst _ _ _ => (0x00000004, 0x00000004)

/-- The port of a bare table word. A word does not say which port it is written to and the table's rows overlap
across ports; the bits the table gives a row do: an RX_CTRL row has bits 2:0 only, so one byte; a command row has all 32
bits, each of them fixed; the RX_BYTE row takes every other 32-bit word (log 7, DESIGN CHOICE). -/
def tablePort (nbits : Nat) (w : Word) : Port :=
  if nbits ≤ 8 then .rxCtrl
  else
    match decodeCmd w with
    | .instr _ => .cmd
    | .reject _ => .rxData

/-- The instruction the decoder reads from the table word `w` of `nbits` bits (bits above are 0), on the port
`tablePort` gives it. -/
def decodeTableWord (nbits w : Nat) : Option Instr :=
  if w < 2 ^ 32 then
    match decode (tablePort nbits (BitVec.ofNat 32 w)) (BitVec.ofNat 32 w) with
    | .instr i => some i
    | .reject _ => none
  else none

end Sys2Proof
end

