-- ==== Sys2Proof/Machine/Constants.lean ====
section
/-! DEFINITION. The values the source fixes (00_scope R6). -/

namespace Sys2Proof.Machine

/-- `MAGIC`: the two bytes a frame starts with, in order. -/
def magic0 : Byte := 0xC0

/-- The second byte of `MAGIC`. -/
def magic1 : Byte := 0x3E

/-- `MAX_PACKET`: the largest packet a frame carries. -/
def maxPacket : Nat := 65535

/-- `CSUM_MOD`. -/
def csumMod : Nat := 255

/-- `DELIM`: the optional delimiter on received traffic. -/
def delim : Byte := 0x0A

/-- `BLOCK`: the cipher block in bytes. -/
def blockBytes : Nat := 16

/-- `KEY_LEN`: the cipher key is `secret[0..16)`. -/
def keyLen : Nat := 16

/-- `MACKEY_LEN`: the MAC key is at most `secret[0..32)`. -/
def macKeyLen : Nat := 32

/-- `MAC_LEN`: bytes of the HMAC that are kept. -/
def macLen : Nat := 2

/-- The SECRET store at reset: `PUBLIC_SECRET` and 16 zero bytes (10_state R38, 70_reset R290; log 18). -/
def resetSecret : Vector Byte 32 :=
  #v[0x8B, 0x33, 0x87, 0xE9, 0xC5, 0xCD, 0xEA, 0x6A, 0xC9, 0xE5, 0xED, 0xBA, 0xA1, 0x15, 0xCD, 0x72,
     0x00, 0x00, 0x00, 0x00, 0x00, 0x00, 0x00, 0x00, 0x00, 0x00, 0x00, 0x00, 0x00, 0x00, 0x00, 0x00]

end Sys2Proof.Machine
end

