-- ==== Sys2Proof/Machine/State.lean ====
section
/-! DEFINITION. The state of the block as plain data, its faults, and reset (10_state, 70_reset R290). -/

namespace Sys2Proof.Machine

/-- A byte buffer with its defined bits (10_state R42): the defined bytes as (index, byte), indexes strictly rising.
An index that is not listed is an undefined byte (log 13). -/
abbrev Memory := List Host.Cell

/-- The error codes of 60_exceptions R260; `ECODE` values 5-15 are never produced. -/
inductive ECode where
  | noError
  | truncated
  | badMagic
  | checksumMismatch
  | encodingError
deriving DecidableEq, Repr

/-- The sub-codes of 60_exceptions R261; `ESUB` values 10-255 are never produced. -/
inductive ESub where
  | noError
  | rsvdBits
  | illegalOpcode
  | srcLenRange
  | secretLen
  | argRange
  | frameLen
  | pktShort
  | pathOverrun
  | outOvf
deriving DecidableEq, Repr

/-- `RX_STATUS.STATE` (10_state R35, 41_frame_codec R122); values 6 and 7 never occur. -/
inductive RxState where
  | magic
  | length
  | body
  | csum
  | hold
  | closed
deriving DecidableEq, Repr

/-- The width of a bus access; only `word` has a meaning (20_memory R61). -/
inductive Width where
  | byte
  | half
  | word
deriving DecidableEq, Repr

/-- What happens next outside the block: a host access, the CU's turn, or power-on (00_scope R12; log 2, 6).
The address is the whole one, `P_BASE` + offset. -/
inductive Input where
  /-- `MemRead` at an address. -/
  | read (width : Width) (addr : Nat)
  /-- `MemWrite` of a value at an address. -/
  | write (width : Width) (addr : Nat) (value : Word)
  /-- The schedule lets the CU take its completion step now (10_state R22). -/
  | cuTurn
  /-- Power-on reset (70_reset R290). -/
  | powerOn
deriving DecidableEq, Repr

/-- The receive frame decoder: its registers (10_state R35-R37, R41) and hidden state (R43). -/
@[ext]
structure Rx where
  /-- `RX_STATUS.STATE`. -/
  state : RxState
  /-- `RX_STATUS.VALID`. -/
  valid : Bool
  /-- `RX_STATUS.ECODE`. -/
  ecode : ECode
  /-- `RX_STATUS.OVF`. -/
  ovf : Bool
  /-- `RX_STATUS.EOSF`. -/
  eosf : Bool
  /-- `RX_LEN.LEN`. -/
  len : BitVec 16
  /-- `RX_CSUM`. -/
  csum : Word
  /-- `rcnt`: bytes consumed of the current field. -/
  rcnt : Nat
  /-- `m0`: the first magic byte received. -/
  m0 : Byte
  /-- `lhi`: the first length byte received. -/
  lhi : Byte
  /-- `ra`: running accumulator a over the body so far. -/
  ra : Byte
  /-- `rb`: running accumulator b over the body so far. -/
  rb : Byte
  /-- `c0`: the first checksum byte received. -/
  c0 : Byte
  /-- `RXBUF`. -/
  buf : Memory
deriving DecidableEq, Repr

/-- The whole machine. `cfg`, `inputs`, `lastRead` and `draws` are the model's own (log 1, 2, 4, 5); every other field is
the spec's (INVENTORY.md, State). -/
@[ext]
structure State where
  /-- The parameters of this instance; no step changes them. -/
  cfg : Config
  /-- What the host and the schedule still do, oldest first. -/
  inputs : List Input
  /-- The word the last `MemRead` returned to the host. -/
  lastRead : Option Word
  /-- How many free words have been drawn. -/
  draws : Nat
  /-- `cu_busy` and `STATUS.BUSY`, which equals it (10_state R25). -/
  cuBusy : Bool
  /-- `cu_cmd`: the latched command word (10_state R22). -/
  cuCmd : Word
  /-- `STATUS.DONE`. -/
  done : Bool
  /-- `STATUS.ECODE`. -/
  ecode : ECode
  /-- `STATUS.ESUB`. -/
  esub : ESub
  /-- `CTRL.DSKIP`. -/
  dskip : Bool
  /-- `SRC_LEN.LEN`. -/
  srcLen : BitVec 17
  /-- `ARG0`. -/
  arg0 : Word
  /-- `ARG1`. -/
  arg1 : Word
  /-- `RESULT`. -/
  result : Word
  /-- `DST_LEN.LEN`. -/
  dstLen : BitVec 18
  /-- `CSUM.A`. -/
  csumA : Byte
  /-- `CSUM.B`. -/
  csumB : Byte
  /-- `SECRET_LEN.LEN`. -/
  secretLen : BitVec 6
  /-- The SECRET store, `SECRET[0..32)`. -/
  secret : Vector Byte 32
  /-- The SRC buffer. -/
  src : Memory
  /-- The DST buffer. -/
  dst : Memory
  /-- The receive decoder. -/
  rx : Rx
deriving DecidableEq, Repr

/-- The two hazards of 70_reset R292 and R293. -/
inductive HazardKind where
  /-- `OPERAND_WRITE`: raised by a host write of an operand while the CU is busy. -/
  | operandWrite
  /-- `CMD_WHILE_BUSY`: raised by a host write of `CMD` while the CU is busy. -/
  | cmdWhileBusy
deriving DecidableEq, Repr

/-- The model faults of 60_exceptions R268; the faulted state is final. -/
inductive Fault where
  /-- Raised by a bus access that is not an aligned word or is to an unmapped address (20_memory R61, R62). Safe: the
  hardware's bus response is not specified, and the model stops. -/
  | busError (addr : Nat)
  /-- Raised by a `CMD` or operand write while busy (70_reset R292, R293). Safe: the hardware result is unspecified, and
  the model stops. -/
  | hazardViolation (kind : HazardKind)
  /-- Raised by a command that consumes SRC byte `offset`, never written since reset (10_state R42). Safe: hardware would
  compute with an unknown byte, and the model stops. -/
  | uninitialisedOperand (offset : Nat)
deriving DecidableEq, Repr

/-- Why an instruction has no meaning here. -/
inductive Refusal where
  /-- Raised only by an arm of `exec` whose instruction has no meaning yet. Safe: the model stops. No arm does. -/
  | notModelled (mnemonic : String)
deriving DecidableEq, Repr

/-- What a step or a meaning answers. -/
abbrev Result := Host.Outcome State Fault Refusal

/-- The receive decoder at reset (70_reset R290). -/
def Rx.reset : Rx where
  state := .magic
  valid := false
  ecode := .noError
  ovf := false
  eosf := false
  len := 0
  csum := 0
  rcnt := 0
  m0 := 0
  lhi := 0
  ra := 0
  rb := 0
  c0 := 0
  buf := []

/-- The machine right after power-on reset (70_reset R290). The model's own fields: the default parameters with base 0
(log 1), no input waiting (log 2), no read done (log 4), no free value drawn (log 5), each a DESIGN CHOICE. -/
def State.reset : State where
  cfg := Config.default
  inputs := []
  lastRead := none
  draws := 0
  cuBusy := false
  cuCmd := 0
  done := false
  ecode := .noError
  esub := .noError
  dskip := false
  srcLen := 0
  arg0 := 0
  arg1 := 0
  result := 0
  dstLen := 0
  csumA := 0
  csumB := 0
  secretLen := 16
  secret := resetSecret
  src := []
  dst := []
  rx := Rx.reset

end Sys2Proof.Machine
end

