-- ==== Sys2Proof/Machine/Ops.lean ====
section
/-! DEFINITION. The named operations over the buffers and registers: reading and writing bytes, starting a command
(10_state R22), completing it (R22), reporting an `EncodingError` (60_exceptions R263; the block's one way of taking an
error, it has no trap entry and no return, R265, R266), and the reset step (70_reset R290, R291). -/

namespace Sys2Proof.Machine

/-- What an index reads as that the list of defined bytes does not name: nothing, the byte is undefined (10_state R42). -/
def Memory.unlisted : Option Byte := none

/-- The byte at an index, if it is defined. -/
def Memory.byteAt (m : Memory) (i : Nat) : Option Byte :=
  match m with
  | [] => Memory.unlisted
  | (j, b) :: rest => if i = j then some b else Memory.byteAt rest i

/-- Store one byte, which becomes defined. -/
def Memory.put (m : Memory) (i : Nat) (b : Byte) : Memory :=
  match m with
  | [] => [(i, b)]
  | (j, c) :: rest =>
    if i < j then (i, b) :: (j, c) :: rest
    else if i = j then (i, b) :: rest
    else (j, c) :: Memory.put rest i b

/-- Store bytes at consecutive indexes from `i` on. -/
def Memory.putBytes (m : Memory) (i : Nat) (bs : List Byte) : Memory :=
  match bs with
  | [] => m
  | b :: rest => Memory.putBytes (Memory.put m i b) (i + 1) rest

/-- The bytes `[i .. i + n)`, or the first index of them that is undefined. -/
def Memory.slice (m : Memory) (i n : Nat) : Except Nat (List Byte) :=
  match n with
  | 0 => .ok []
  | k + 1 =>
    match Memory.byteAt m i with
    | none => .error i
    | some b =>
      match Memory.slice m (i + 1) k with
      | .error j => .error j
      | .ok bs => .ok (b :: bs)

/-- The canonical form of a buffer: indexes strictly rising (an unlisted index reads as no value, so no entry equals it). -/
abbrev Memory.wf (m : Memory) : Prop := m.Pairwise fun c d => c.1 < d.1

/-- A host write of `CMD` to the idle CU (10_state R22). -/
def State.latch (s : State) (w : Word) : State :=
  { s with cuCmd := w, cuBusy := true, done := false, ecode := .noError, esub := .noError }

/-- The end of a successful completion step (10_state R22). -/
def State.finish (s : State) : State :=
  { s with cuBusy := false, done := true, ecode := .noError, esub := .noError }

/-- `raise EncodingError(sub)`: the completion step writes the status and nothing else (60_exceptions R263). -/
def State.raiseError (s : State) (sub : ESub) : State :=
  { s with cuBusy := false, done := true, ecode := .encodingError, esub := sub }

/-- `CSUM.A <- a; CSUM.B <- b`. -/
def State.setCsum (s : State) (ab : Byte × Byte) : State :=
  { s with csumA := ab.1, csumB := ab.2 }

/-- `RESULT <- v`. -/
def State.setResult (s : State) (v : Word) : State :=
  { s with result := v }

/-- `for i in 0 .. len(bs)-1: DST[i] <- bs[i]`, then `DST_LEN <- len(bs)`. -/
def State.putDst (s : State) (bs : List Byte) : State :=
  { s with dst := Memory.putBytes s.dst 0 bs, dstLen := BitVec.ofNat 18 bs.length }

/-- Replace the receive decoder's state. -/
def State.setRx (s : State) (r : Rx) : State :=
  { s with rx := r }

/-- Every RXBUF byte becomes undefined (10_state R42). -/
def Rx.clearBuf (r : Rx) : Rx :=
  { r with buf := [] }

/-- The reset step, power-on or `CTRL.SRST` (70_reset R290, R291): all of the block's state; the model's own fields (the
parameters, what the host still does, what it has read) are not the block's (log 6). -/
def State.resetBlock (s : State) : State :=
  { State.reset with cfg := s.cfg, inputs := s.inputs, lastRead := s.lastRead, draws := s.draws }

/-- The state of a `next` answer, for tests and statements. -/
def nextOf (r : Result) : Option State :=
  match r with
  | .next t => some t
  | .fault _ => none
  | .refused _ => none

/-- The fault of a `fault` answer, for tests and statements. -/
def faultOf (r : Result) : Option Fault :=
  match r with
  | .next _ => none
  | .fault f => some f
  | .refused _ => none

end Sys2Proof.Machine
end

