-- ==== Sys2Proof/Machine/Flags.lean ====
section
/-! DEFINITION. The numbers of the error codes, sub-codes and decoder states, and the status words built from the
flags (10_state R25, R35; 60_exceptions R260, R261). -/

namespace Sys2Proof.Machine

/-- The `ECODE` number (60_exceptions R260). -/
def ECode.bits : ECode → BitVec 4
  | .noError => 0
  | .truncated => 1
  | .badMagic => 2
  | .checksumMismatch => 3
  | .encodingError => 4

/-- The `ESUB` number (60_exceptions R261). -/
def ESub.bits : ESub → BitVec 8
  | .noError => 0
  | .rsvdBits => 1
  | .illegalOpcode => 2
  | .srcLenRange => 3
  | .secretLen => 4
  | .argRange => 5
  | .frameLen => 6
  | .pktShort => 7
  | .pathOverrun => 8
  | .outOvf => 9

/-- The `RX_STATUS.STATE` number (10_state R35). -/
def RxState.bits : RxState → BitVec 3
  | .magic => 0
  | .length => 1
  | .body => 2
  | .csum => 3
  | .hold => 4
  | .closed => 5

/-- `STATUS` as read (10_state R25): reserved 31:16, ESUB 15:8, ECODE 7:4, reserved 3:2, DONE 1, BUSY 0. -/
def State.statusWord (s : State) : Word :=
  (0 : BitVec 16) ++ s.esub.bits ++ s.ecode.bits ++ (0 : BitVec 2) ++ BitVec.ofBool s.done ++ BitVec.ofBool s.cuBusy

/-- `RX_STATUS` as read (10_state R35): reserved 31:10, EOSF 9, OVF 8, ECODE 7:4, VALID 3, STATE 2:0. -/
def Rx.statusWord (r : Rx) : Word :=
  (0 : BitVec 22) ++ BitVec.ofBool r.eosf ++ BitVec.ofBool r.ovf ++ r.ecode.bits ++ BitVec.ofBool r.valid ++ r.state.bits

/-- `CTRL` as read (10_state R24): reserved 31:2, DSKIP 1, SRST 0, which always reads 0. -/
def State.ctrlWord (s : State) : Word :=
  (0 : BitVec 30) ++ BitVec.ofBool s.dskip ++ (0 : BitVec 1)

/-- `CSUM` as read (10_state R31): reserved 31:16, B 15:8, A 7:0. -/
def State.csumWord (s : State) : Word :=
  (0 : BitVec 16) ++ s.csumB ++ s.csumA

end Sys2Proof.Machine
end

