-- ==== Sys2Proof/Machine/Operands.lean ====
section
/-! DEFINITION. Operand assembly (30_encoding R81), the checks of 60_exceptions R261 in continuation form (a failed
check completes with its sub-code, R263), and integer encodings into bytes (00_scope R10). -/

namespace Sys2Proof.Machine

/-- `u16be` (00_scope R10). -/
def u16be (v : Nat) : List Byte :=
  [BitVec.ofNat 8 (v / 256), BitVec.ofNat 8 v]

/-- `u32le` (00_scope R10). -/
def u32le (v : Word) : List Byte :=
  [v.extractLsb' 0 8, v.extractLsb' 8 8, v.extractLsb' 16 8, v.extractLsb' 24 8]

/-- `ceil16` (00_scope R10). -/
def ceil16 (n : Nat) : Nat :=
  n + (16 - n % 16) % 16

/-- `zeros` (00_scope R9). -/
def zeros (n : Nat) : List Byte :=
  List.replicate n 0

/-- A pair of bytes as a 32-bit value, `(hi << 8) | lo` (92_eei D12). -/
def pairWord (hi lo : Byte) : Word :=
  (hi ++ lo).setWidth 32

/-- `SECRET[0..SECRET_LEN)` (43_channel_crypto, opening). -/
def State.secretBytes (s : State) : List Byte :=
  s.secret.toList.take s.secretLen.toNat

/-- `EncodingError(SRC_LEN_RANGE)`, or go on (60_exceptions R261). -/
def checkSrcLen (s : State) (k : Result) : Result :=
  if s.srcLen.toNat > s.cfg.srcSize then .next (s.raiseError .srcLenRange) else k

/-- `EncodingError(SECRET_LEN)`, or go on (60_exceptions R261). -/
def checkSecretLen (s : State) (k : Result) : Result :=
  if s.secretLen.toNat < s.cfg.secretMin ∨ s.secretLen.toNat > s.cfg.secretMax then .next (s.raiseError .secretLen) else k

/-- `EncodingError(ARG_RANGE)` if the argument is out of range, or go on (60_exceptions R261). -/
def checkArg (s : State) (bad : Bool) (k : Result) : Result :=
  if bad then .next (s.raiseError .argRange) else k

/-- `EncodingError(OUT_OVF)` if `len` bytes do not fit DST, or go on (60_exceptions R261). -/
def checkOut (s : State) (len : Nat) (k : Result) : Result :=
  if len > s.cfg.dstSize then .next (s.raiseError .outOvf) else k

/-- Consume `SRC[i .. i+n)`: `fault UninitialisedOperand` at the first undefined byte (10_state R42; log 14). -/
def consumeSrc (s : State) (i n : Nat) (k : List Byte → Result) : Result :=
  match Memory.slice s.src i n with
  | .error off => .fault (.uninitialisedOperand off)
  | .ok bs => k bs

/-- Consume the one byte `SRC[i]`. -/
def consumeByte (s : State) (i : Nat) (k : Byte → Result) : Result :=
  match Memory.byteAt s.src i with
  | none => .fault (.uninitialisedOperand i)
  | some b => k b

end Sys2Proof.Machine
end

