-- ==== Sys2Proof/Machine/Sha256.lean ====
section
/-! DEFINITION. SHA-256 and HMAC-SHA256 (45_primitives R220-R227, R240, R241; log 17). -/

namespace Sys2Proof.Machine

/-- The hash value `H[0..8)`, and the working variables `(a, ..., h)` (45_primitives R226). -/
structure HashState where
  a : Word
  b : Word
  c : Word
  d : Word
  e : Word
  f : Word
  g : Word
  h : Word
deriving DecidableEq, Repr

/-- `ROTR(x, k)` (45_primitives R220). -/
def rotr (x : Word) (k : Nat) : Word := (x >>> k) ||| (x <<< (32 - k))

/-- `Ch` (45_primitives R224). -/
def shaCh (e f g : Word) : Word := (e &&& f) ^^^ (~~~e &&& g)

/-- `Maj` (45_primitives R224). -/
def shaMaj (a b c : Word) : Word := (a &&& b) ^^^ (a &&& c) ^^^ (b &&& c)

/-- `S0` (45_primitives R224). -/
def shaBigS0 (a : Word) : Word := rotr a 2 ^^^ rotr a 13 ^^^ rotr a 22

/-- `S1` (45_primitives R224). -/
def shaBigS1 (e : Word) : Word := rotr e 6 ^^^ rotr e 11 ^^^ rotr e 25

/-- `s0` (45_primitives R224). -/
def shaS0 (x : Word) : Word := rotr x 7 ^^^ rotr x 18 ^^^ (x >>> 3)

/-- `s1` (45_primitives R224). -/
def shaS1 (x : Word) : Word := rotr x 17 ^^^ rotr x 19 ^^^ (x >>> 10)

/-- `H0` (45_primitives R222). -/
def shaH0 : HashState where
  a := 0x6A09E667
  b := 0xBB67AE85
  c := 0x3C6EF372
  d := 0xA54FF53A
  e := 0x510E527F
  f := 0x9B05688C
  g := 0x1F83D9AB
  h := 0x5BE0CD19

/-- `K[0..64)` (45_primitives R223). -/
def shaK : List Word :=
  [0x428A2F98, 0x71374491, 0xB5C0FBCF, 0xE9B5DBA5, 0x3956C25B, 0x59F111F1, 0x923F82A4, 0xAB1C5ED5,
   0xD807AA98, 0x12835B01, 0x243185BE, 0x550C7DC3, 0x72BE5D74, 0x80DEB1FE, 0x9BDC06A7, 0xC19BF174] ++
  [0xE49B69C1, 0xEFBE4786, 0x0FC19DC6, 0x240CA1CC, 0x2DE92C6F, 0x4A7484AA, 0x5CB0A9DC, 0x76F988DA,
   0x983E5152, 0xA831C66D, 0xB00327C8, 0xBF597FC7, 0xC6E00BF3, 0xD5A79147, 0x06CA6351, 0x14292967] ++
  [0x27B70A85, 0x2E1B2138, 0x4D2C6DFC, 0x53380D13, 0x650A7354, 0x766A0ABB, 0x81C2C92E, 0x92722C85,
   0xA2BFE8A1, 0xA81A664B, 0xC24B8B70, 0xC76C51A3, 0xD192E819, 0xD6990624, 0xF40E3585, 0x106AA070] ++
  [0x19A4C116, 0x1E376C08, 0x2748774C, 0x34B0BCB5, 0x391C0CB3, 0x4ED8AA4A, 0x5B9CCA4F, 0x682E6FF3,
   0x748F82EE, 0x78A5636F, 0x84C87814, 0x8CC70208, 0x90BEFFFA, 0xA4506CEB, 0xBEF9A3F7, 0xC67178F2]

/-- `u64be` (45_primitives R221). -/
def u64be (v : Nat) : List Byte :=
  [56, 48, 40, 32, 24, 16, 8, 0].map fun k => BitVec.ofNat 8 (v >>> k)

/-- The padded message `M` (45_primitives R221). -/
def shaPad (m : List Byte) : List Byte :=
  m ++ [0x80] ++ zeros ((64 - (m.length + 9) % 64) % 64) ++ u64be (8 * m.length)

/-- The first `k` pieces of `n` bytes of a sequence, in order. -/
def pieces (n k : Nat) (l : List Byte) : List (List Byte) :=
  match k with
  | 0 => []
  | j + 1 => l.take n :: pieces n j (l.drop n)

/-- Bytes grouped into words big-endian (45_primitives R220). -/
def beWords (l : List Byte) : List Word :=
  match l with
  | b0 :: b1 :: b2 :: b3 :: rest => (b0 ++ b1 ++ b2 ++ b3) :: beWords rest
  | _ => []

/-- A word as its four bytes, big-endian. -/
def beBytes (w : Word) : List Byte :=
  [w.extractLsb' 24 8, w.extractLsb' 16 8, w.extractLsb' 8 8, w.extractLsb' 0 8]

/-- `n` more words of the schedule on top of `W[t-1], W[t-2], ...` (45_primitives R225). -/
def shaExtend (n : Nat) (w : List Word) : List Word :=
  match n with
  | 0 => w
  | k + 1 => shaExtend k ((shaS1 (w.getD 1 0) + w.getD 6 0 + shaS0 (w.getD 14 0) + w.getD 15 0) :: w)

/-- The message schedule `W[0..64)` of a 64-byte block (45_primitives R225). -/
def shaSchedule (block : List Byte) : List Word :=
  (shaExtend 48 (beWords block).reverse).reverse

/-- One round of the compression with `(K[t], W[t])` (45_primitives R226). -/
def shaStep (s : HashState) (kw : Word × Word) : HashState :=
  let t1 := s.h + shaBigS1 s.e + shaCh s.e s.f s.g + kw.1 + kw.2
  let t2 := shaBigS0 s.a + shaMaj s.a s.b s.c
  { a := t1 + t2, b := s.a, c := s.b, d := s.c, e := s.d + t1, f := s.e, g := s.f, h := s.g }

/-- The compression of one block (45_primitives R226). -/
def shaCompress (s : HashState) (block : List Byte) : HashState :=
  let r := (shaK.zip (shaSchedule block)).foldl shaStep s
  { a := s.a + r.a, b := s.b + r.b, c := s.c + r.c, d := s.d + r.d,
    e := s.e + r.e, f := s.f + r.f, g := s.g + r.g, h := s.h + r.h }

/-- The 32 output bytes of a hash value (45_primitives R227). -/
def HashState.toBytes (s : HashState) : List Byte :=
  beBytes s.a ++ beBytes s.b ++ beBytes s.c ++ beBytes s.d ++ beBytes s.e ++ beBytes s.f ++ beBytes s.g ++ beBytes s.h

/-- `SHA256(m)` (45_primitives R227). -/
def sha256 (m : List Byte) : List Byte :=
  let p := shaPad m
  ((pieces 64 (p.length / 64) p).foldl shaCompress shaH0).toBytes

/-- The 64-byte block key `K0` (45_primitives R241). -/
def hmacBlockKey (k : List Byte) : List Byte :=
  if k.length ≤ 64 then k ++ zeros (64 - k.length) else sha256 k ++ zeros 32

/-- `HMAC_SHA256(k, m)` (45_primitives R240). -/
def hmacSha256 (k m : List Byte) : List Byte :=
  let k0 := hmacBlockKey k
  sha256 (k0.map (· ^^^ 0x5C) ++ sha256 (k0.map (· ^^^ 0x36) ++ m))

end Sys2Proof.Machine
end

