-- ==== Sys2Proof/Machine/Aes128.lean ====
section
/-! DEFINITION. AES-128 encryption of one block (45_primitives R250-R254; log 17). A block, a round key and the cipher
state are lists of 16 bytes with `s[r][c]` at index `r + 4c`, the order in which R250 loads and reads them. -/

namespace Sys2Proof.Machine

/-- `xtime`, multiplication by 2 in GF(2^8) (45_primitives R250). -/
def xtime (v : Byte) : Byte :=
  if v.getLsbD 7 then (v <<< 1) ^^^ 0x1B else v <<< 1

/-- Multiplication by 3 (45_primitives R253). -/
def xtime3 (v : Byte) : Byte :=
  xtime v ^^^ v

/-- The S-box, row by row (45_primitives R251). -/
def aesSboxTable : List Byte :=
  [0x63, 0x7C, 0x77, 0x7B, 0xF2, 0x6B, 0x6F, 0xC5, 0x30, 0x01, 0x67, 0x2B, 0xFE, 0xD7, 0xAB, 0x76] ++
  [0xCA, 0x82, 0xC9, 0x7D, 0xFA, 0x59, 0x47, 0xF0, 0xAD, 0xD4, 0xA2, 0xAF, 0x9C, 0xA4, 0x72, 0xC0] ++
  [0xB7, 0xFD, 0x93, 0x26, 0x36, 0x3F, 0xF7, 0xCC, 0x34, 0xA5, 0xE5, 0xF1, 0x71, 0xD8, 0x31, 0x15] ++
  [0x04, 0xC7, 0x23, 0xC3, 0x18, 0x96, 0x05, 0x9A, 0x07, 0x12, 0x80, 0xE2, 0xEB, 0x27, 0xB2, 0x75] ++
  [0x09, 0x83, 0x2C, 0x1A, 0x1B, 0x6E, 0x5A, 0xA0, 0x52, 0x3B, 0xD6, 0xB3, 0x29, 0xE3, 0x2F, 0x84] ++
  [0x53, 0xD1, 0x00, 0xED, 0x20, 0xFC, 0xB1, 0x5B, 0x6A, 0xCB, 0xBE, 0x39, 0x4A, 0x4C, 0x58, 0xCF] ++
  [0xD0, 0xEF, 0xAA, 0xFB, 0x43, 0x4D, 0x33, 0x85, 0x45, 0xF9, 0x02, 0x7F, 0x50, 0x3C, 0x9F, 0xA8] ++
  [0x51, 0xA3, 0x40, 0x8F, 0x92, 0x9D, 0x38, 0xF5, 0xBC, 0xB6, 0xDA, 0x21, 0x10, 0xFF, 0xF3, 0xD2] ++
  [0xCD, 0x0C, 0x13, 0xEC, 0x5F, 0x97, 0x44, 0x17, 0xC4, 0xA7, 0x7E, 0x3D, 0x64, 0x5D, 0x19, 0x73] ++
  [0x60, 0x81, 0x4F, 0xDC, 0x22, 0x2A, 0x90, 0x88, 0x46, 0xEE, 0xB8, 0x14, 0xDE, 0x5E, 0x0B, 0xDB] ++
  [0xE0, 0x32, 0x3A, 0x0A, 0x49, 0x06, 0x24, 0x5C, 0xC2, 0xD3, 0xAC, 0x62, 0x91, 0x95, 0xE4, 0x79] ++
  [0xE7, 0xC8, 0x37, 0x6D, 0x8D, 0xD5, 0x4E, 0xA9, 0x6C, 0x56, 0xF4, 0xEA, 0x65, 0x7A, 0xAE, 0x08] ++
  [0xBA, 0x78, 0x25, 0x2E, 0x1C, 0xA6, 0xB4, 0xC6, 0xE8, 0xDD, 0x74, 0x1F, 0x4B, 0xBD, 0x8B, 0x8A] ++
  [0x70, 0x3E, 0xB5, 0x66, 0x48, 0x03, 0xF6, 0x0E, 0x61, 0x35, 0x57, 0xB9, 0x86, 0xC1, 0x1D, 0x9E] ++
  [0xE1, 0xF8, 0x98, 0x11, 0x69, 0xD9, 0x8E, 0x94, 0x9B, 0x1E, 0x87, 0xE9, 0xCE, 0x55, 0x28, 0xDF] ++
  [0x8C, 0xA1, 0x89, 0x0D, 0xBF, 0xE6, 0x42, 0x68, 0x41, 0x99, 0x2D, 0x0F, 0xB0, 0x54, 0xBB, 0x16]

/-- `Sbox[x]` (45_primitives R251). -/
def aesSbox (x : Byte) : Byte :=
  aesSboxTable.getD x.toNat 0

/-- `Rcon[1..10]` (45_primitives R252). -/
def aesRcon : List Byte :=
  [0x01, 0x02, 0x04, 0x08, 0x10, 0x20, 0x40, 0x80, 0x1B, 0x36]

/-- Bytewise XOR. -/
def xorBytes (x y : List Byte) : List Byte :=
  List.zipWith (· ^^^ ·) x y

/-- `RotWord` (45_primitives R252). -/
def rotWord (w : List Byte) : List Byte :=
  w.drop 1 ++ w.take 1

/-- The round key after `key`, made with `Rcon[j]`: four words, each the one before it XOR the word four back
(45_primitives R252). -/
def aesNextKey (rcon : Byte) (key : List Byte) : List Byte :=
  let w0 := xorBytes (key.take 4) (xorBytes ((rotWord (key.drop 12)).map aesSbox) [rcon, 0, 0, 0])
  let w1 := xorBytes ((key.drop 4).take 4) w0
  let w2 := xorBytes ((key.drop 8).take 4) w1
  let w3 := xorBytes (key.drop 12) w2
  w0 ++ w1 ++ w2 ++ w3

/-- `SubBytes` (45_primitives R253). -/
def aesSubBytes (s : List Byte) : List Byte :=
  s.map aesSbox

/-- `ShiftRows`: `s[r][c] <- s[r][(c + r) mod 4]` (45_primitives R253). -/
def aesShiftRows (s : List Byte) : List Byte :=
  (List.range 16).map fun i => s.getD (i % 4 + 4 * ((i / 4 + i % 4) % 4)) 0

/-- `MixColumns` (45_primitives R253). -/
def aesMixColumns (s : List Byte) : List Byte :=
  match s with
  | a0 :: a1 :: a2 :: a3 :: rest =>
    (xtime a0 ^^^ xtime3 a1 ^^^ a2 ^^^ a3) :: (a0 ^^^ xtime a1 ^^^ xtime3 a2 ^^^ a3) ::
      (a0 ^^^ a1 ^^^ xtime a2 ^^^ xtime3 a3) :: (xtime3 a0 ^^^ a1 ^^^ a2 ^^^ xtime a3) :: aesMixColumns rest
  | _ => []

/-- The rounds from the one whose round key is made with the first of `rcons` to the last, which has no `MixColumns`
(45_primitives R254). `key` is the round key used last. -/
def aesRounds (rcons : List Byte) (key s : List Byte) : List Byte :=
  match rcons with
  | [] => s
  | [rcon] => xorBytes (aesShiftRows (aesSubBytes s)) (aesNextKey rcon key)
  | rcon :: rcon2 :: rest =>
    aesRounds (rcon2 :: rest) (aesNextKey rcon key)
      (xorBytes (aesMixColumns (aesShiftRows (aesSubBytes s))) (aesNextKey rcon key))

/-- `AES128(key, in)` (45_primitives R254). -/
def aes128 (key block : List Byte) : List Byte :=
  aesRounds aesRcon key (xorBytes block key)

end Sys2Proof.Machine
end

