-- ==== Sys2Proof/Machine/Fletcher.lean ====
section
/-! DEFINITION. The Fletcher-16 fold and checksum (40_checksum R100, R101). -/

namespace Sys2Proof.Machine

/-- One byte into accumulators `(a, b)`: `a` first, then `b` with the new `a`; the sums are exact before they are
reduced mod 255 (40_checksum R100). -/
def fletcherStep (ab : Byte × Byte) (x : Byte) : Byte × Byte :=
  let a : Byte := BitVec.ofNat 8 ((ab.1.toNat + x.toNat) % csumMod)
  (a, BitVec.ofNat 8 ((ab.2.toNat + a.toNat) % csumMod))

/-- `Fletcher(a, b, s)` (40_checksum R100). -/
def fletcher (a b : Byte) (s : List Byte) : Byte × Byte :=
  s.foldl fletcherStep (a, b)

/-- The two bytes `[b, a]` of accumulators `(a, b)`, high accumulator first (40_checksum R101). -/
def checksumBytes (ab : Byte × Byte) : List Byte :=
  [ab.2, ab.1]

/-- The 16-bit value `(b << 8) | a` (40_checksum R101, 92_eei D12). -/
def checksumWord (ab : Byte × Byte) : Word :=
  pairWord ab.2 ab.1

/-- `Checksum(d)` (40_checksum R101); the start `a = b = 0` is the classic one (log 18). -/
def checksum (d : List Byte) : List Byte :=
  checksumBytes (fletcher 0 0 d)

end Sys2Proof.Machine
end

