-- ==== Sys2Proof/Machine/Checksum.lean ====
section
/-! DEFINITION. The checksum commands (40_checksum R102-R105). Each meaning is the command's completion step. -/

namespace Sys2Proof.Machine

/-- `CSUM_CLR` (40_checksum R102). -/
def execCsumClr (s : State) : Result :=
  .next ((s.setCsum (0, 0)).setResult 0).finish

/-- `CSUM_ACC` (40_checksum R103). -/
def execCsumAcc (s : State) : Result :=
  checkSrcLen s <|
  consumeSrc s 0 s.srcLen.toNat fun d =>
  let ab := fletcher s.csumA s.csumB d
  .next ((s.setCsum ab).setResult (checksumWord ab)).finish

/-- `CSUM_COMPUTE` (40_checksum R104). -/
def execCsumCompute (s : State) : Result :=
  checkSrcLen s <|
  checkOut s 2 <|
  consumeSrc s 0 s.srcLen.toNat fun d =>
  let ab := fletcher 0 0 d
  .next (((s.setCsum ab).setResult (checksumWord ab)).putDst (checksumBytes ab)).finish

/-- `CSUM_VERIFY` (40_checksum R105). -/
def execCsumVerify (s : State) : Result :=
  checkSrcLen s <|
  checkArg s (s.arg0.extractLsb' 16 16 != 0) <|
  consumeSrc s 0 s.srcLen.toNat fun d =>
  let ab := fletcher 0 0 d
  let c0 : Byte := s.arg0.extractLsb' 8 8
  let c1 : Byte := s.arg0.extractLsb' 0 8
  .next ((s.setCsum ab).setResult (if c0 = ab.2 ∧ c1 = ab.1 then 1 else 0)).finish

end Sys2Proof.Machine
end

