-- ==== Sys2Proof/Machine/Frame.lean ====
section
/-! DEFINITION. The frame codec: the encoder command and the receive decoder's operations (41_frame_codec). -/

namespace Sys2Proof.Machine

/-- `FrameEncode(p)` (41_frame_codec R120). -/
def frameEncode (p : List Byte) : List Byte :=
  [magic0, magic1] ++ u16be p.length ++ p ++ checksum p

/-- `FRAME_ENCODE` (41_frame_codec R121): private accumulators, `CSUM` untouched (10_state R44). -/
def execFrameEncode (s : State) : Result :=
  checkSrcLen s <|
  if s.srcLen.toNat > maxPacket then .next (s.raiseError .frameLen) else
  checkOut s (s.srcLen.toNat + 6) <|
  consumeSrc s 0 s.srcLen.toNat fun p =>
  let f := frameEncode p
  .next ((s.putDst f).setResult (pairWord (f.getD (s.srcLen.toNat + 4) 0) (f.getD (s.srcLen.toNat + 5) 0))).finish

/-- RX byte in `MAGIC` (41_frame_codec R124, R125, R128). A count that is not 0 is the second byte's (log 15). -/
def Rx.magicByte (r : Rx) (dskip : Bool) (x : Byte) : Rx :=
  if r.rcnt = 0 then
    if dskip = true ∧ x = delim then r else { r with m0 := x, rcnt := 1 }
  else if r.m0 = magic0 ∧ x = magic1 then { r with rcnt := 0, state := .length }
  else { r with rcnt := 0, state := .hold, valid := false, ecode := .badMagic }

/-- RX byte in `LENGTH` (41_frame_codec R126). -/
def Rx.lengthByte (r : Rx) (x : Byte) : Rx :=
  if r.rcnt = 0 then { r with lhi := x, rcnt := 1 }
  else
    let n : BitVec 16 := r.lhi ++ x
    { r with len := n, ra := 0, rb := 0, rcnt := 0, buf := [], state := if n = 0 then .csum else .body }

/-- RX byte in `BODY` (41_frame_codec R127). -/
def Rx.bodyByte (r : Rx) (x : Byte) : Rx :=
  let ab := fletcherStep (r.ra, r.rb) x
  let stored := { r with buf := Memory.put r.buf r.rcnt x, ra := ab.1, rb := ab.2 }
  if r.rcnt + 1 = r.len.toNat then { stored with state := .csum, rcnt := 0 }
  else { stored with rcnt := r.rcnt + 1 }

/-- RX byte in `CSUM` (41_frame_codec R129, R130). -/
def Rx.csumByte (r : Rx) (x : Byte) : Rx :=
  if r.rcnt = 0 then { r with c0 := x, rcnt := 1 }
  else
    let held := { r with csum := r.rb ++ r.ra ++ r.c0 ++ x, rcnt := 0, state := .hold }
    if r.c0 = r.rb ∧ x = r.ra then { held with valid := true, ecode := .noError }
    else { held with valid := false, ecode := .checksumMismatch, buf := [] }

/-- One received byte, by decoder state (41_frame_codec R124-R131). -/
def Rx.byte (r : Rx) (dskip : Bool) (x : Byte) : Rx :=
  match r.state with
  | .magic => r.magicByte dskip x
  | .length => r.lengthByte x
  | .body => r.bodyByte x
  | .csum => r.csumByte x
  | .hold => { r with ovf := true }
  | .closed => { r with ovf := true }

/-- End of stream (41_frame_codec R133). -/
def Rx.eos (r : Rx) : Rx :=
  match r.state with
  | .magic => { r.clearBuf with eosf := true, state := .closed, valid := false, ecode := .truncated, rcnt := 0 }
  | .length => { r.clearBuf with eosf := true, state := .closed, valid := false, ecode := .truncated, rcnt := 0 }
  | .body => { r.clearBuf with eosf := true, state := .closed, valid := false, ecode := .truncated, rcnt := 0 }
  | .csum => { r.clearBuf with eosf := true, state := .closed, valid := false, ecode := .truncated, rcnt := 0 }
  | .hold => { r with eosf := true }
  | .closed => { r with eosf := true }

/-- Acknowledge (41_frame_codec R134). -/
def Rx.ack (r : Rx) : Rx :=
  match r.state with
  | .hold =>
    let freed := { r.clearBuf with valid := false, ovf := false }
    if r.eosf then { freed with state := .closed, ecode := .truncated }
    else { freed with state := .magic, ecode := .noError, rcnt := 0 }
  | .magic => r
  | .length => r
  | .body => r
  | .csum => r
  | .closed => r

/-- `RX_BYTE` (41_frame_codec R124-R131); bits 31:8 of the word are ignored (10_state R34). -/
def execRxByte (x : Byte) (_ignored : BitVec 24) (s : State) : Result :=
  .next (s.setRx (s.rx.byte s.dskip x))

/-- `RX_ACK` (41_frame_codec R134), followed by EOS in the same write if its bit is 1 (R136). -/
def execRxAck (eos : Bool) (_ignored : BitVec 29) (s : State) : Result :=
  .next (s.setRx (if eos then s.rx.ack.eos else s.rx.ack))

/-- `RX_EOS` (41_frame_codec R133), after ACK in the same write if its bit is 1 (R136). -/
def execRxEos (ack : Bool) (_ignored : BitVec 29) (s : State) : Result :=
  .next (s.setRx (if ack then s.rx.ack.eos else s.rx.eos))

/-- `RX_RST` (41_frame_codec R135): it alone acts, whatever the other bits (R136). -/
def execRxRst (_ack _eos : Bool) (_ignored : BitVec 29) (s : State) : Result :=
  .next (s.setRx Rx.reset)

end Sys2Proof.Machine
end

