-- ==== Sys2Proof/Machine/Header.lean ====
section
/-! DEFINITION. The packet header and packet split (42_packet_header). -/

namespace Sys2Proof.Machine

/-- `pack(route, type)` (42_packet_header R160). -/
def headerPack (route : BitVec 2) (type : BitVec 4) : Byte :=
  (type.setWidth 8 <<< 2) ||| route.setWidth 8

/-- `route` of a header byte (42_packet_header R161). -/
def headerRoute (h : Byte) : BitVec 2 := h.extractLsb' 0 2

/-- `type` of a header byte (42_packet_header R161). -/
def headerType (h : Byte) : BitVec 4 := h.extractLsb' 2 4

/-- `rsv` of a header byte (42_packet_header R161, 90_conflicts C2). -/
def headerRsv (h : Byte) : BitVec 2 := h.extractLsb' 6 2

/-- `(h[7:6] << 16) | (h[5:2] << 8) | h[1:0]` (42_packet_header R164, R166). -/
def headerFields (h : Byte) : Word :=
  ((headerRsv h).setWidth 32 <<< 16) ||| ((headerType h).setWidth 32 <<< 8) ||| (headerRoute h).setWidth 32

/-- `HDR_PACK` (42_packet_header R163). -/
def execHdrPack (s : State) : Result :=
  checkArg s (decide (s.arg0.toNat > 3 ∨ s.arg1.toNat > 15)) <|
  .next (s.setResult ((headerPack (s.arg0.extractLsb' 0 2) (s.arg1.extractLsb' 0 4)).setWidth 32)).finish

/-- `HDR_UNPACK` (42_packet_header R164). -/
def execHdrUnpack (s : State) : Result :=
  checkArg s (s.arg0.extractLsb' 8 24 != 0) <|
  .next (s.setResult (headerFields (s.arg0.extractLsb' 0 8))).finish

/-- `PKT_PARSE` (42_packet_header R166): `SRC[1]` is read by the PATH_OVERRUN check, the path bytes are not read. -/
def execPktParse (s : State) : Result :=
  let n := s.srcLen.toNat
  checkSrcLen s <|
  if n < 2 then .next (s.raiseError .pktShort) else
  consumeByte s 1 fun pl =>
  if pl.toNat > n - 2 then .next (s.raiseError .pathOverrun) else
  checkOut s (n - 2 - pl.toNat) <|
  consumeByte s 0 fun h =>
  consumeSrc s (2 + pl.toNat) (n - 2 - pl.toNat) fun payload =>
  .next ((s.setResult ((pl.setWidth 32 <<< 24) ||| headerFields h)).putDst payload).finish

end Sys2Proof.Machine
end

