-- ==== Sys2Proof/Machine/Crypto.lean ====
section
/-! DEFINITION. Channel hash and encrypt-then-MAC (43_channel_crypto). -/

namespace Sys2Proof.Machine

/-- `channelHash(secret)` (43_channel_crypto R180). -/
def channelHash (secret : List Byte) : Byte :=
  (sha256 secret).getD 0 0

/-- `Pad(pt)` (43_channel_crypto R182). -/
def padBlock (pt : List Byte) : List Byte :=
  pt ++ zeros (ceil16 pt.length - pt.length)

/-- The ciphertext: each 16-byte block of `Pad(pt)` on its own (43_channel_crypto R183). -/
def ecbEncrypt (secret pt : List Byte) : List Byte :=
  let m := padBlock pt
  ((pieces blockBytes (m.length / blockBytes) m).map (aes128 (secret.take keyLen))).flatten

/-- The MAC over the ciphertext alone (43_channel_crypto R184, 45_primitives R242). -/
def macOf (secret ct : List Byte) : List Byte :=
  (hmacSha256 (secret.take macKeyLen) ct).take macLen

/-- `encryptThenMac(secret, pt)` (43_channel_crypto R185). -/
def encryptThenMac (secret pt : List Byte) : List Byte :=
  let ct := ecbEncrypt secret pt
  macOf secret ct ++ ct

/-- `CHASH` (43_channel_crypto R181). -/
def execChash (s : State) : Result :=
  checkSecretLen s <|
  .next (s.setResult ((channelHash s.secretBytes).setWidth 32)).finish

/-- `ENC_MAC` (43_channel_crypto R186). -/
def execEncMac (s : State) : Result :=
  checkSrcLen s <|
  checkSecretLen s <|
  checkOut s (2 + ceil16 s.srcLen.toNat) <|
  consumeSrc s 0 s.srcLen.toNat fun pt =>
  let e := encryptThenMac s.secretBytes pt
  .next ((s.putDst e).setResult (pairWord (e.getD 0 0) (e.getD 1 0))).finish

end Sys2Proof.Machine
end

