-- ==== Sys2Proof/Machine/GroupText.lean ====
section
/-! DEFINITION. The group-text plaintext and packet (44_group_text). -/

namespace Sys2Proof.Machine

/-- `build(ts, sender, message)` (44_group_text R200). -/
def groupText (ts : Word) (sender message : List Byte) : List Byte :=
  u32le ts ++ [0x00] ++ sender ++ [0x3A, 0x20] ++ message

/-- `buildGroupTextPacket(secret, sender, message, ts)`: header, path_len 0, channel hash, MAC, ciphertext
(44_group_text R202); the header is `pack(FLOOD, GRP_TXT)`. -/
def groupTextPacket (secret sender message : List Byte) (ts : Word) : List Byte :=
  [headerPack 1 5, 0x00] ++ [channelHash secret] ++ encryptThenMac secret (groupText ts sender message)

/-- `GTXT_BUILD` (44_group_text R201): `RESULT` is unchanged. -/
def execGtxtBuild (s : State) : Result :=
  let n := s.srcLen.toNat
  checkSrcLen s <|
  checkArg s (decide (s.arg1.toNat > n)) <|
  checkOut s (n + 7) <|
  consumeSrc s 0 s.arg1.toNat fun sender =>
  consumeSrc s s.arg1.toNat (n - s.arg1.toNat) fun message =>
  .next (s.putDst (groupText s.arg0 sender message)).finish

/-- `GTXT_PACKET` (44_group_text R203): `RESULT` is unchanged. -/
def execGtxtPacket (s : State) : Result :=
  let n := s.srcLen.toNat
  checkSrcLen s <|
  checkSecretLen s <|
  checkArg s (decide (s.arg1.toNat > n)) <|
  checkOut s (5 + ceil16 (n + 7)) <|
  consumeSrc s 0 s.arg1.toNat fun sender =>
  consumeSrc s s.arg1.toNat (n - s.arg1.toNat) fun message =>
  .next (s.putDst (groupTextPacket s.secretBytes sender message s.arg0)).finish

end Sys2Proof.Machine
end

