-- ==== Sys2Proof/Machine/Dispatch.lean ====
section
/-! DEFINITION. One arm per instruction: its meaning. -/

namespace Sys2Proof.Machine

def exec (i : Instr) (s : State) : Host.Outcome State Fault Refusal :=
  match i with
  | .csumClr => Sys2Proof.Machine.execCsumClr s
  | .csumAcc => Sys2Proof.Machine.execCsumAcc s
  | .csumCompute => Sys2Proof.Machine.execCsumCompute s
  | .csumVerify => Sys2Proof.Machine.execCsumVerify s
  | .frameEncode => Sys2Proof.Machine.execFrameEncode s
  | .hdrPack => Sys2Proof.Machine.execHdrPack s
  | .hdrUnpack => Sys2Proof.Machine.execHdrUnpack s
  | .pktParse => Sys2Proof.Machine.execPktParse s
  | .chash => Sys2Proof.Machine.execChash s
  | .encMac => Sys2Proof.Machine.execEncMac s
  | .gtxtBuild => Sys2Proof.Machine.execGtxtBuild s
  | .gtxtPacket => Sys2Proof.Machine.execGtxtPacket s
  | .rxByte x ignored => Sys2Proof.Machine.execRxByte x ignored s
  | .rxAck eos ignored => Sys2Proof.Machine.execRxAck eos ignored s
  | .rxEos ack ignored => Sys2Proof.Machine.execRxEos ack ignored s
  | .rxRst ack eos ignored => Sys2Proof.Machine.execRxRst ack eos ignored s

end Sys2Proof.Machine
end

