-- ==== Sys2Proof/Machine/Bus.lean ====
section
/-! DEFINITION. The agents' steps: the register map and windows (10_state R23, 20_memory R63), host reads and writes
(10_state R45, 20_memory R60-R68, 70_reset R292-R294), the CU's completion step (10_state R22), and how the next
instruction is placed. -/

namespace Sys2Proof.Machine

/-- What an aligned word access reaches: a register, or the word of a window that starts at a byte index. -/
inductive Target where
  | ctrl
  | status
  | cmd
  | srcLen
  | arg0
  | arg1
  | result
  | dstLen
  | csum
  | secretLen
  | rxCtrl
  | rxData
  | rxStatus
  | rxLen
  | rxCsum
  | secret (i : Nat)
  | src (i : Nat)
  | dst (i : Nat)
  | rxbuf (i : Nat)
deriving DecidableEq, Repr

/-- The control and status registers by offset (10_state R23). -/
def registerMap : List (Nat × Target) :=
  [(0x000, .ctrl), (0x004, .status), (0x008, .cmd), (0x00C, .srcLen), (0x010, .arg0), (0x014, .arg1),
   (0x018, .result), (0x01C, .dstLen), (0x020, .csum), (0x024, .secretLen),
   (0x040, .rxCtrl), (0x044, .rxData), (0x048, .rxStatus), (0x04C, .rxLen), (0x050, .rxCsum)]

/-- The address map of 20_memory R63; `none` is unmapped. A shrunk buffer ends its window early (log 10). -/
def busTarget (c : Config) (off : Nat) : Option Target :=
  if off < 0x100 then registerMap.lookup off
  else if off < 0x120 then some (.secret (off - 0x100))
  else if off < 0x10000 then none
  else if off < 0x20000 then if off - 0x10000 < c.srcSize then some (.src (off - 0x10000)) else none
  else if off < 0x40000 then if off - 0x20000 < c.dstSize then some (.dst (off - 0x20000)) else none
  else if off < 0x50000 then if off - 0x40000 < c.rxbufSize then some (.rxbuf (off - 0x40000)) else none
  else none

/-- An access that has a meaning: an aligned word at a mapped offset from `P_BASE` (20_memory R61, R62; log 9). -/
def resolve (c : Config) (width : Width) (addr : Nat) : Option Target :=
  if width = .word ∧ addr % 4 = 0 ∧ c.base ≤ addr then busTarget c (addr - c.base) else none

/-- What a read returns: a value, or four byte lanes of which the undefined ones are `any` (10_state R42). -/
inductive ReadValue where
  | exact (v : Word)
  | lanes (b0 b1 b2 b3 : Option Byte)
deriving DecidableEq, Repr

/-- A wholly unconstrained word, `any` (00_scope R11). -/
def ReadValue.anyWord : ReadValue := .lanes none none none none

/-- The four lanes of a window word at byte index `i`, lowest byte in lane 0 (20_memory R60). -/
def readLanes (at_ : Nat → Option Byte) (i : Nat) : ReadValue :=
  .lanes (at_ i) (at_ (i + 1)) (at_ (i + 2)) (at_ (i + 3))

/-- An RXBUF byte a host may rely on: `RXBUF[0..RX_LEN)` while `VALID = 1` (10_state R41; log 12). -/
def Rx.bodyAt (r : Rx) (i : Nat) : Option Byte :=
  if r.valid = true ∧ i < r.len.toNat then Memory.byteAt r.buf i else none

/-- What the host reads (10_state R24-R37, R45; while busy the outputs are `any`, 70_reset R294). -/
def readTarget (s : State) (t : Target) : ReadValue :=
  match t with
  | .ctrl => .exact s.ctrlWord
  | .status => .exact s.statusWord
  | .cmd => .exact 0
  | .srcLen => .exact (s.srcLen.setWidth 32)
  | .arg0 => .exact s.arg0
  | .arg1 => .exact s.arg1
  | .result => if s.cuBusy then .anyWord else .exact s.result
  | .dstLen => if s.cuBusy then .anyWord else .exact (s.dstLen.setWidth 32)
  | .csum => if s.cuBusy then .anyWord else .exact s.csumWord
  | .secretLen => .exact (s.secretLen.setWidth 32)
  | .rxCtrl => .exact 0
  | .rxData => .exact 0
  | .rxStatus => .exact s.rx.statusWord
  | .rxLen => .exact (s.rx.len.setWidth 32)
  | .rxCsum => .exact s.rx.csum
  | .secret i => readLanes (fun j => s.secret[j]?) i
  | .src i => readLanes (Memory.byteAt s.src) i
  | .dst i => if s.cuBusy then .anyWord else readLanes (Memory.byteAt s.dst) i
  | .rxbuf i => readLanes s.rx.bodyAt i

/-- Four bytes as a bus word: byte 0 in bits 7:0 (20_memory R60). -/
def busWord (b0 b1 b2 b3 : Byte) : Word :=
  b3 ++ b2 ++ b1 ++ b0

/-- Lane `k` of a bus word, bits `8k+7 : 8k` (20_memory R60). -/
def laneOf (w : Word) (k : Nat) : Byte :=
  w.extractLsb' (8 * k) 8

/-- Hand the host its value. A value with an undefined lane takes those lanes from a fresh free word (log 5); a fully
defined one takes none. -/
def State.deliver (s : State) (r : ReadValue) : State :=
  match r with
  | .exact v => { s with lastRead := some v }
  | .lanes (some b0) (some b1) (some b2) (some b3) => { s with lastRead := some (busWord b0 b1 b2 b3) }
  | .lanes b0 b1 b2 b3 =>
    let f := Config.freeWord s.draws
    { s with
      lastRead := some (busWord (b0.getD (laneOf f 0)) (b1.getD (laneOf f 1)) (b2.getD (laneOf f 2)) (b3.getD (laneOf f 3)))
      draws := s.draws + 1 }

/-- `MemRead` (20_memory R61, R62; reads have no side effect on the block, R68). -/
def hostRead (width : Width) (addr : Nat) (s : State) : Result :=
  match resolve s.cfg width addr with
  | none => .fault (.busError addr)
  | some t => .next (s.deliver (readTarget s t))

/-- The operands whose writes are a hazard while busy (70_reset R292). -/
def Target.isOperand : Target → Bool
  | .srcLen => true
  | .arg0 => true
  | .arg1 => true
  | .secretLen => true
  | .secret _ => true
  | .src _ => true
  | .ctrl => false
  | .status => false
  | .cmd => false
  | .result => false
  | .dstLen => false
  | .csum => false
  | .rxCtrl => false
  | .rxData => false
  | .rxStatus => false
  | .rxLen => false
  | .rxCsum => false
  | .dst _ => false
  | .rxbuf _ => false

/-- Write a word of the SECRET window at byte index `i` (20_memory R60). -/
def putSecret (secret : Vector Byte 32) (i : Nat) (v : Word) : Vector Byte 32 :=
  (((secret.setIfInBounds i (laneOf v 0)).setIfInBounds (i + 1) (laneOf v 1)).setIfInBounds (i + 2)
    (laneOf v 2)).setIfInBounds (i + 3) (laneOf v 3)

/-- Write a word of the SRC window at byte index `i`; lanes past the end of a shrunk buffer are no bytes of it and are
dropped (20_memory R60; log 10). -/
def putSrc (size : Nat) (m : Memory) (i : Nat) (v : Word) : Memory :=
  Memory.putBytes m i ([laneOf v 0, laneOf v 1, laneOf v 2, laneOf v 3].take (size - i))

/-- Run the instruction a word written to an RX port stands for; a word that is none has no effect (30_encoding R84). -/
def runRxWord (d : Decoded) (s : State) : Result :=
  match d with
  | .instr i => exec i s
  | .reject _ => .next s

/-- What a legal host write does (10_state R24-R35, R45; 20_memory R62, R68; 70_reset R291). -/
def writeTarget (t : Target) (v : Word) (s : State) : Result :=
  match t with
  | .ctrl => if v.getLsbD 0 then .next s.resetBlock else .next { s with dskip := v.getLsbD 1 }
  | .status => .next s
  | .cmd => .next (s.latch v)
  | .srcLen => .next { s with srcLen := v.extractLsb' 0 17 }
  | .arg0 => .next { s with arg0 := v }
  | .arg1 => .next { s with arg1 := v }
  | .result => .next s
  | .dstLen => .next s
  | .csum => .next s
  | .secretLen => .next { s with secretLen := v.extractLsb' 0 6 }
  | .rxCtrl => runRxWord (decode .rxCtrl v) s
  | .rxData => runRxWord (decode .rxData v) s
  | .rxStatus => .next s
  | .rxLen => .next s
  | .rxCsum => .next s
  | .secret i => .next { s with secret := putSecret s.secret i v }
  | .src i => .next { s with src := putSrc s.cfg.srcSize s.src i v }
  | .dst _ => .next s
  | .rxbuf _ => .next s

/-- `MemWrite`: bus errors (20_memory R61, R62; log 9), then the hazards of a busy CU (70_reset R292, R293), then the write. -/
def hostWrite (width : Width) (addr : Nat) (v : Word) (s : State) : Result :=
  match resolve s.cfg width addr with
  | none => .fault (.busError addr)
  | some t =>
    if s.cuBusy = true ∧ t.isOperand = true then .fault (.hazardViolation .operandWrite)
    else if s.cuBusy = true ∧ t = .cmd then .fault (.hazardViolation .cmdWhileBusy)
    else writeTarget t v s

/-- The sub-code of a command word that is no instruction (30_encoding R83). -/
def rejectCode : DecodeError → ESub
  | .rsvdBits => .rsvdBits
  | .illegalOpcode => .illegalOpcode
  | .noAction => .illegalOpcode

/-- The completion step of the latched command word (10_state R22, R26; 30_encoding R83). -/
def completeCommand (s : State) : Result :=
  match decode .cmd s.cuCmd with
  | .instr i => exec i s
  | .reject e => .next (s.raiseError (rejectCode e))

/-- The CU's turn: a busy CU completes, an idle one does nothing (10_state R21, R22; log 3). -/
def cuStep (s : State) : Result :=
  if s.cuBusy then completeCommand s else .next s

/-- One input (00_scope R12). -/
def runInput (x : Input) (s : State) : Result :=
  match x with
  | .read width addr => hostRead width addr s
  | .write width addr v => hostWrite width addr v s
  | .cuTurn => cuStep s
  | .powerOn => .next s.resetBlock

/-- The next step of the machine: the oldest input, or, when the outside is silent, the CU, which then completes a command
it is running (70_reset R298, fairness; log 3). -/
def nextStep (s : State) : Result :=
  match s.inputs with
  | [] => cuStep s
  | x :: rest => runInput x { s with inputs := rest }

/-- Place a table word where the next step runs it (log 2, 7): a command word is latched as by a CMD write to an idle CU
and the CU has its turn; an RX word is the next host write. -/
def placeTableWord (s : State) (nbits w : Nat) : State :=
  let word : Word := BitVec.ofNat 32 w
  match tablePort nbits word with
  | .cmd => { s.latch word with inputs := .cuTurn :: s.inputs }
  | .rxCtrl => { s with inputs := .write .word (s.cfg.base + 0x40) word :: s.inputs }
  | .rxData => { s with inputs := .write .word (s.cfg.base + 0x44) word :: s.inputs }

end Sys2Proof.Machine
end

