-- ==== Sys2Proof/Machine/Step.lean ====
section
/-! DEFINITION. The step function, and how a table word is placed for it. -/

namespace Sys2Proof.Machine

/-- One step of the machine (00_scope R12): a host access, the CU's completion step, or a reset. -/
def step (s : State) : Host.Outcome State Fault Refusal :=
  nextStep s

/-- `s` with the instruction of a table word where the next step runs it (log 2, 7). -/
def State.withFetchWord (s : State) (nbits w : Nat) : State :=
  placeTableWord s nbits w

end Sys2Proof.Machine
end

