-- ==== Sys2Proof/Safety.lean ====
section
/-! DEFINITION. The terms the statements use: byte sequences of the SRC buffer as the spec writes them, the writes that
feed the receive decoder, and the invariant every step keeps. -/

namespace Sys2Proof.Machine

/-- Every byte of `SRC[i..j)` is defined (10_state R42). -/
abbrev State.SrcDefined (s : State) (i j : Nat) : Prop :=
  ∀ k, i ≤ k → k < j → (Memory.byteAt s.src k).isSome = true

/-- `SRC[i..j)` as a byte sequence (00_scope R9); meant where its bytes are defined. -/
def State.srcBytes (s : State) (i j : Nat) : List Byte :=
  (List.range' i (j - i)).map fun k => (Memory.byteAt s.src k).getD 0

/-- `k` is the first undefined byte of `SRC[i..j)`. -/
abbrev State.FirstUndefined (s : State) (i j k : Nat) : Prop :=
  i ≤ k ∧ k < j ∧ Memory.byteAt s.src k = none ∧ s.SrcDefined i k

/-- The answer is `fault UninitialisedOperand` of an undefined byte of `SRC[i..j)` (10_state R42). -/
def State.FaultsAtUndefined (s : State) (i j : Nat) (r : Result) : Prop :=
  ∃ k, i ≤ k ∧ k < j ∧ Memory.byteAt s.src k = none ∧ r = .fault (.uninitialisedOperand k)

/-- `SRC[0..SRC_LEN)`, the operand bytes of most commands (30_encoding R81). -/
def State.srcData (s : State) : List Byte :=
  s.srcBytes 0 s.srcLen.toNat

/-- `SRC_LEN` is within SRC and every byte of `SRC[0..SRC_LEN)` is defined. -/
abbrev State.SrcReady (s : State) : Prop :=
  s.srcLen.toNat ≤ s.cfg.srcSize ∧ s.SrcDefined 0 s.srcLen.toNat

/-- The command has the opcode in format C (30_encoding R80), and the same opcode with a nonzero RSVD field completes with
`EncodingError(RSVD_BITS)`. -/
def CommandEncoding (op : Byte) (i : Instr) : Prop :=
  decode .cmd ((0 : BitVec 24) ++ op) = .instr i ∧
    ∀ s : State, opcodeOf s.cuCmd = op → rsvdOf s.cuCmd ≠ 0 → completeCommand s = .next (s.raiseError .rsvdBits)

/-- The commands; the others act on the receive decoder (30_encoding R84). -/
def IsCommand (i : Instr) : Prop :=
  (encode i).1 = .cmd

/-- The secret's length is one a crypto command accepts (10_state R32). -/
abbrev State.SecretLegal (s : State) : Prop :=
  s.cfg.secretMin ≤ s.secretLen.toNat ∧ s.secretLen.toNat ≤ s.cfg.secretMax

/-- Equal in everything a host can reach: all but the inputs that are left, the value of the last read and the count of
free values. -/
def State.SameBlock (s t : State) : Prop :=
  t = { s with inputs := t.inputs, lastRead := t.lastRead, draws := t.draws }

/-- `FEED` of 30_encoding R92: one `RX_DATA` write per byte. -/
def feedInputs (c : Config) (bs : List Byte) : List Input :=
  bs.map fun x => .write .word (c.base + 0x44) (x.setWidth 32)

/-- How many body bytes RXBUF holds: those received so far, all of them once the body is complete and while a valid
result is held, none otherwise (10_state R42, 41_frame_codec R126-R134). -/
def Rx.storedCount (r : Rx) : Nat :=
  match r.state with
  | .magic => 0
  | .length => 0
  | .body => r.rcnt
  | .csum => r.len.toNat
  | .hold => if r.valid then r.len.toNat else 0
  | .closed => 0

/-- The body bytes RXBUF holds, in order. -/
def Rx.bodyBytes (r : Rx) : List Byte :=
  r.buf.map Prod.snd

/-- `rcnt` is in its range (10_state R43). -/
def Rx.CountInRange (r : Rx) : Prop :=
  match r.state with
  | .magic => r.rcnt ≤ 1
  | .length => r.rcnt ≤ 1
  | .body => r.rcnt < r.len.toNat
  | .csum => r.rcnt ≤ 1
  | .hold => r.rcnt = 0
  | .closed => r.rcnt = 0

/-- The result flags fit the decoder's state (10_state R35, 41_frame_codec R132). -/
def Rx.FlagsFit (r : Rx) : Prop :=
  match r.state with
  | .magic => r.valid = false ∧ r.ecode = .noError ∧ r.ovf = false ∧ r.eosf = false
  | .length => r.valid = false ∧ r.ecode = .noError ∧ r.ovf = false ∧ r.eosf = false
  | .body => r.valid = false ∧ r.ecode = .noError ∧ r.ovf = false ∧ r.eosf = false
  | .csum => r.valid = false ∧ r.ecode = .noError ∧ r.ovf = false ∧ r.eosf = false
  | .hold => (r.valid = true ∧ r.ecode = .noError) ∨
      (r.valid = false ∧ (r.ecode = .badMagic ∨ r.ecode = .checksumMismatch))
  | .closed => r.valid = false ∧ r.ecode = .truncated ∧ r.eosf = true

/-- The running accumulators are the checksum of the body received so far (41_frame_codec R130 by 40_checksum R107), and a
held valid result carries that checksum twice in `RX_CSUM` (10_state R37). -/
def Rx.SumsBody (r : Rx) : Prop :=
  ((r.state = .body ∨ r.state = .csum) → (r.ra, r.rb) = fletcher 0 0 r.bodyBytes) ∧
    (r.valid = true →
      r.csum = (fletcher 0 0 r.bodyBytes).2 ++ (fletcher 0 0 r.bodyBytes).1 ++
        (fletcher 0 0 r.bodyBytes).2 ++ (fletcher 0 0 r.bodyBytes).1)

/-- What holds of the receive decoder in every reachable state. -/
def Rx.Inv (r : Rx) : Prop :=
  r.ra.toNat ≤ 254 ∧ r.rb.toNat ≤ 254 ∧ r.CountInRange ∧ r.FlagsFit ∧
    r.buf.map Prod.fst = List.range r.storedCount ∧ r.SumsBody

/-- The command unit's status fits its state (10_state R22, R25; 60_exceptions R260, R261). -/
def State.StatusFits (s : State) : Prop :=
  (s.cuBusy = true → s.done = false ∧ s.ecode = .noError) ∧
    (s.ecode = .noError ∨ s.ecode = .encodingError) ∧ (s.esub = .noError ↔ s.ecode = .noError)

/-- A buffer in canonical form with every byte inside its size. -/
def Memory.Inside (m : Memory) (size : Nat) : Prop :=
  Memory.wf m ∧ ∀ c ∈ m, c.1 < size

/-- What holds in every reachable state. -/
def State.Inv (s : State) : Prop :=
  s.csumA.toNat ≤ 254 ∧ s.csumB.toNat ≤ 254 ∧ s.StatusFits ∧
    Memory.Inside s.src s.cfg.srcSize ∧ Memory.Inside s.dst s.cfg.dstSize ∧ s.rx.Inv

end Sys2Proof.Machine
end

