-- ==== Sys2Proof/Certificates/Slice0/Obligations.lean ====
section
/-! DEFINITION. The statements for the provers, each a proposition about the model in the spec's terms. A next state is
written as a record update, so that it says what changes and that nothing else does. -/

open Sys2Proof Sys2Proof.Machine

/-! ## Encoding (30_encoding) -/

/-- 30_encoding R80, R84: the decoder gives every well-formed instruction back from its port and word, with every operand
bit. Which form an RX_CTRL word with ACK and EOS has is the model's choice (log 8). -/
def Obligations.DecodeInvertsEncode : Prop :=
  ∀ i : Instr, i.wellFormed = true → decode (encode i).1 (encode i).2 = .instr i

/-- 30_encoding R80-R84: a word of a port decodes to at most one instruction, which is well-formed and is encoded by that
port and word. Which form an RX_CTRL word with ACK and EOS has is the model's choice (log 8). -/
def Obligations.EncodeInvertsDecode : Prop :=
  ∀ (p : Port) (w : Word) (i : Instr), decode p w = .instr i → i.wellFormed = true ∧ encode i = (p, w)

/-- 30_encoding R82, R84: words written out from the encodings decode to their instructions. That the word 0xB, with ACK and EOS,
decodes to RX_ACK with its EOS bit is the model's choice (log 8): R84 says it matches both rows. -/
def Obligations.WrittenWordsDecode : Prop :=
  decode .cmd 0x00000003 = .instr .csumCompute ∧ decode .cmd 0x00000010 = .instr .frameEncode ∧
    decode .cmd 0x00000022 = .instr .pktParse ∧ decode .cmd 0x00000031 = .instr .encMac ∧
    decode .cmd 0x00000041 = .instr .gtxtPacket ∧ decode .rxData 0xAABBCC0A = .instr (.rxByte 0x0A 0xAABBCC) ∧
    decode .rxCtrl 0x00000009 = .instr (.rxAck false 1) ∧
    decode .rxCtrl 0x0000000B = .instr (.rxAck true 1) ∧ decode .rxCtrl 0x00000002 = .instr (.rxEos false 0) ∧
    decode .rxCtrl 0x00000005 = .instr (.rxRst true false 0)

/-- 30_encoding R83: a command word with a nonzero RSVD field, whatever its opcode, and one with an unassigned opcode complete
with their sub-codes and no other effect. -/
def Obligations.IllegalCommandWordsCompleteWithError : Prop :=
  ∀ s : State,
    (rsvdOf s.cuCmd ≠ 0 →
      completeCommand s =
        .next { s with cuBusy := false, done := true, ecode := .encodingError, esub := .rsvdBits }) ∧
    (rsvdOf s.cuCmd = 0 →
      opcodeOf s.cuCmd ∉
        [0x01, 0x02, 0x03, 0x04, 0x10, 0x20, 0x21, 0x22, 0x30, 0x31, 0x40, 0x41] →
      completeCommand s =
        .next { s with cuBusy := false, done := true, ecode := .encodingError, esub := .illegalOpcode })

/-! ## Steps (00_scope R12, 10_state R22, 20_memory) -/

/-- 10_state R22: when the CU is busy with a word that decodes to an instruction, and it has the turn or the outside is
silent, the step is that instruction's meaning. -/
def Obligations.StepRunsLatchedCommand : Prop :=
  ∀ (s : State) (i : Instr), s.cuBusy = true → decode .cmd s.cuCmd = .instr i →
    (s.inputs = [] → step s = exec i s) ∧
    (∀ rest, s.inputs = .cuTurn :: rest → step s = exec i { s with inputs := rest })

/-- 30_encoding R84: a host write to an RX port runs the instruction its word stands for in the same step, whether or not the
CU is busy; an RX_CTRL word with bits 2:0 all 0 changes nothing. -/
def Obligations.StepRunsWrittenRxWord : Prop :=
  ∀ (s : State) (rest : List Input) (v : Word), s.cfg.base % 4 = 0 →
    (∀ i, s.inputs = .write .word (s.cfg.base + 0x40) v :: rest → decode .rxCtrl v = .instr i →
      step s = exec i { s with inputs := rest }) ∧
    (∀ i, s.inputs = .write .word (s.cfg.base + 0x44) v :: rest → decode .rxData v = .instr i →
      step s = exec i { s with inputs := rest }) ∧
    (s.inputs = .write .word (s.cfg.base + 0x40) v :: rest → v.extractLsb' 0 3 = 0 →
      step s = .next { s with inputs := rest })

/-- 10_state R22, R26: a CMD write to the idle CU latches the word, whatever it is, and starts it. -/
def Obligations.CmdWriteStartsCommand : Prop :=
  ∀ (s : State) (rest : List Input) (w : Word), s.cfg.base % 4 = 0 → s.cuBusy = false →
    s.inputs = .write .word (s.cfg.base + 0x008) w :: rest →
    step s =
      .next { s with
        inputs := rest, cuCmd := w, cuBusy := true, done := false, ecode := .noError, esub := .noError }

/-- 70_reset R298, 10_state R22: with the outside silent, a busy CU's next step is its completion (at once: the model's
schedule, log 3), unless the command consumes an SRC byte never written (10_state R42). No instruction stops otherwise, and the
byte the fault names is the first undefined one in the order of consumption, by rising index, for `PKT_PARSE` SRC[1], SRC[0] and
the payload (the model's reading, log 14). -/
def Obligations.BusyCommandCompletesOrNamesUndefinedByte : Prop :=
  (∀ s : State, s.cuBusy = true → s.inputs = [] →
    (∃ t, step s = .next t ∧ t.cuBusy = false ∧ t.done = true) ∨
    (∃ k, step s = .fault (.uninitialisedOperand k) ∧ Memory.byteAt s.src k = none)) ∧
  (∀ (s : State) (i : Instr),
    (∀ r, exec i s ≠ .refused r) ∧
    ∀ f, exec i s = .fault f → ∃ k, f = .uninitialisedOperand k ∧
      (i ≠ .pktParse → s.FirstUndefined 0 s.srcLen.toNat k) ∧
      (i = .pktParse →
        (k = 1 ∧ Memory.byteAt s.src 1 = none) ∨
        (∃ pl : Byte, Memory.byteAt s.src 1 = some pl ∧
          ((k = 0 ∧ Memory.byteAt s.src 0 = none) ∨
            ((Memory.byteAt s.src 0).isSome = true ∧ s.FirstUndefined (2 + pl.toNat) s.srcLen.toNat k)))))

/-- 70_reset R292: while the CU is busy, a host write of an operand register, of the SECRET window or of the SRC window is a
hazard. (For the partial last word of an odd-sized SRC see `BusyAccesses`.) -/
def Obligations.OperandWriteWhileBusyFaults : Prop :=
  ∀ (s : State) (rest : List Input) (off : Nat) (v : Word),
    s.cfg.base % 4 = 0 → s.cfg.srcSize ≤ 0x10000 → s.cuBusy = true → off % 4 = 0 →
    (off ∈ [0x00C, 0x010, 0x014, 0x024] ∨ (0x100 ≤ off ∧ off < 0x120) ∨
      (0x10000 ≤ off ∧ off + 4 ≤ 0x10000 + s.cfg.srcSize)) →
    s.inputs = .write .word (s.cfg.base + off) v :: rest →
    step s = .fault (.hazardViolation .operandWrite)

/-- 70_reset R293: while the CU is busy, a host write of CMD is a hazard. -/
def Obligations.CmdWriteWhileBusyFaults : Prop :=
  ∀ (s : State) (rest : List Input) (v : Word), s.cfg.base % 4 = 0 → s.cuBusy = true →
    s.inputs = .write .word (s.cfg.base + 0x008) v :: rest →
    step s = .fault (.hazardViolation .cmdWhileBusy)

/-- 20_memory R61: an access that is no word, or is not at a multiple of 4, is a bus error. (For a write while busy see
`BusyAccesses`.) -/
def Obligations.NarrowOrMisalignedAccessFaults : Prop :=
  ∀ (s : State) (rest : List Input) (width : Width) (addr : Nat) (v : Word),
    (width ≠ .word ∨ addr % 4 ≠ 0) →
    (s.inputs = .read width addr :: rest ∨ (s.inputs = .write width addr v :: rest ∧ s.cuBusy = false)) →
    step s = .fault (.busError addr)

/-- 20_memory R62 with the map of R63: an access to an offset that is not listed is a bus error; a write to the read-only
windows changes nothing. (For a busy write behind SRC see `BusyAccesses`, for the partial last word of an odd-sized DST or RXBUF
`RegisterAccessConventions`.) -/
def Obligations.UnmappedFaultsAndReadOnlyWindowsIgnoreWrites : Prop :=
  ∀ (s : State) (rest : List Input) (off : Nat) (v : Word), s.cfg.base % 4 = 0 → s.cfg.Legal → off % 4 = 0 →
    (((0x028 ≤ off ∧ off < 0x040) ∨ (0x054 ≤ off ∧ off < 0x100) ∨ (0x120 ≤ off ∧ off < 0x10000) ∨
        (0x10000 + s.cfg.srcSize ≤ off ∧ off < 0x20000) ∨ (0x20000 + s.cfg.dstSize ≤ off ∧ off < 0x40000) ∨
        0x40000 + s.cfg.rxbufSize ≤ off) →
      (s.inputs = .read .word (s.cfg.base + off) :: rest ∨
        (s.inputs = .write .word (s.cfg.base + off) v :: rest ∧
          (s.cuBusy = false ∨ off < 0x10000 ∨ 0x20000 ≤ off))) →
      step s = .fault (.busError (s.cfg.base + off))) ∧
    (((0x20000 ≤ off ∧ off + 4 ≤ 0x20000 + s.cfg.dstSize) ∨
        (0x40000 ≤ off ∧ off + 4 ≤ 0x40000 + s.cfg.rxbufSize)) →
      s.inputs = .write .word (s.cfg.base + off) v :: rest → step s = .next { s with inputs := rest })

/-- 10_state R24, R25, R29-R31, R35-R37, R45: what a host reads, field by field with the numbers of the codes (60_exceptions R260,
R261): STATUS and the RX registers in every state, RESULT, DST_LEN and CSUM while idle; so reserved bits read 0. A write to a
read-only register or window is ignored (20_memory R62; that the partial last word of an odd-sized DST or RXBUF is one is the
model's choice, log 10), and a write-only register reads 0. -/
def Obligations.RegisterAccessConventions : Prop :=
  ∀ (s : State) (rest : List Input) (v : Word) (off : Nat), s.cfg.base % 4 = 0 →
    (off ∈ [0x004, 0x018, 0x01C, 0x020, 0x048, 0x04C, 0x050] →
      s.inputs = .write .word (s.cfg.base + off) v :: rest → step s = .next { s with inputs := rest }) ∧
    (off ∈ [0x008, 0x040, 0x044] → s.inputs = .read .word (s.cfg.base + off) :: rest →
      step s = .next { s with inputs := rest, lastRead := some 0 }) ∧
    (∀ p ∈ [((0x000 : Nat), (0xFFFFFFFD : Word)), (0x004, 0xFFFF000C), (0x00C, 0xFFFE0000), (0x024, 0xFFFFFFC0),
        (0x048, 0xFFFFFC00), (0x04C, 0xFFFF0000)],
      s.inputs = .read .word (s.cfg.base + p.1) :: rest →
      ∃ w, step s = .next { s with inputs := rest, lastRead := some w } ∧ w &&& p.2 = 0) ∧
    (∀ p ∈ [((0x01C : Nat), (0xFFFC0000 : Word)), (0x020, 0xFFFF0000)], s.cuBusy = false →
      s.inputs = .read .word (s.cfg.base + p.1) :: rest →
      ∃ w, step s = .next { s with inputs := rest, lastRead := some w } ∧ w &&& p.2 = 0) ∧
    (off % 4 = 0 → s.cfg.Legal →
      ((0x20000 ≤ off ∧ off < 0x20000 + s.cfg.dstSize) ∨ (0x40000 ≤ off ∧ off < 0x40000 + s.cfg.rxbufSize)) →
      s.inputs = .write .word (s.cfg.base + off) v :: rest → step s = .next { s with inputs := rest }) ∧
    (∀ e ∈ [((.noError : ECode), 0), (.truncated, 1), (.badMagic, 2), (.checksumMismatch, 3), (.encodingError, 4)],
      (∀ b ∈ [((.noError : ESub), 0), (.rsvdBits, 1), (.illegalOpcode, 2), (.srcLenRange, 3), (.secretLen, 4),
          (.argRange, 5), (.frameLen, 6), (.pktShort, 7), (.pathOverrun, 8), (.outOvf, 9)],
        s.ecode = e.1 → s.esub = b.1 → s.inputs = .read .word (s.cfg.base + 0x004) :: rest →
        step s = .next { s with
          inputs := rest,
          lastRead := some (BitVec.ofNat 32 (s.cuBusy.toNat + 2 * s.done.toNat + 16 * e.2 + 256 * b.2)) }) ∧
      (∀ q ∈ [((.magic : RxState), 0), (.length, 1), (.body, 2), (.csum, 3), (.hold, 4), (.closed, 5)],
        s.rx.state = q.1 → s.rx.ecode = e.1 → s.inputs = .read .word (s.cfg.base + 0x048) :: rest →
        step s = .next { s with
          inputs := rest,
          lastRead := some (BitVec.ofNat 32
            (q.2 + 8 * s.rx.valid.toNat + 16 * e.2 + 256 * s.rx.ovf.toNat + 512 * s.rx.eosf.toNat)) })) ∧
    (∀ p ∈ [((0x000 : Nat), BitVec.ofNat 32 (2 * s.dskip.toNat)), (0x04C, BitVec.ofNat 32 s.rx.len.toNat),
        (0x050, s.rx.csum)],
      s.inputs = .read .word (s.cfg.base + p.1) :: rest →
      step s = .next { s with inputs := rest, lastRead := some p.2 }) ∧
    (∀ p ∈ [((0x018 : Nat), s.result), (0x01C, BitVec.ofNat 32 s.dstLen.toNat),
        (0x020, BitVec.ofNat 32 (s.csumA.toNat + 256 * s.csumB.toNat))],
      s.cuBusy = false → s.inputs = .read .word (s.cfg.base + p.1) :: rest →
      step s = .next { s with inputs := rest, lastRead := some p.2 })

/-- 10_state R27, R28, R32: an operand register reads back what was written to it, cut to its field (the reserved bits of the
written word are ignored, R45), and nothing else changes. -/
def Obligations.OperandRegistersHoldWhatIsWritten : Prop :=
  ∀ (s : State) (rest : List Input) (v : Word), s.cfg.base % 4 = 0 → s.cuBusy = false →
    (∀ p ∈ [((0x00C : Nat), (0x0001FFFF : Word)), (0x010, 0xFFFFFFFF), (0x014, 0xFFFFFFFF), (0x024, 0x0000003F)],
      s.inputs = .write .word (s.cfg.base + p.1) v :: .read .word (s.cfg.base + p.1) :: rest →
      ∃ t, core.run 2 s = .next t ∧ t.lastRead = some (v &&& p.2) ∧
        t = { s with
          inputs := rest, lastRead := t.lastRead, srcLen := t.srcLen, arg0 := t.arg0, arg1 := t.arg1,
          secretLen := t.secretLen } ∧
        (p.1 ≠ 0x00C → t.srcLen = s.srcLen) ∧ (p.1 ≠ 0x010 → t.arg0 = s.arg0) ∧ (p.1 ≠ 0x014 → t.arg1 = s.arg1) ∧
        (p.1 ≠ 0x024 → t.secretLen = s.secretLen))

/-- 20_memory R60: a window's word holds its four bytes little-endian: a write to SRC or SECRET stores lane `i` in byte
`k + i` and no other byte, and a read of defined bytes of a window puts byte `k + i` in lane `i`. -/
def Obligations.WindowWordsAreLittleEndian : Prop :=
  ∀ (s : State) (rest : List Input) (k : Nat) (v : Word), s.cfg.Legal → k % 4 = 0 → s.cuBusy = false →
    (k + 4 ≤ s.cfg.srcSize → s.inputs = .write .word (s.cfg.base + 0x10000 + k) v :: rest →
      ∃ t, step s = .next t ∧ t = { s with inputs := rest, src := t.src } ∧
        (∀ i, i < 4 → Memory.byteAt t.src (k + i) = some (v.extractLsb' (8 * i) 8)) ∧
        (∀ j, j < k ∨ k + 4 ≤ j → Memory.byteAt t.src j = Memory.byteAt s.src j)) ∧
    (k + 4 ≤ 32 → s.inputs = .write .word (s.cfg.base + 0x100 + k) v :: rest →
      ∃ t, step s = .next t ∧ t = { s with inputs := rest, secret := t.secret } ∧
        (∀ i, i < 4 → t.secret[k + i]? = some (v.extractLsb' (8 * i) 8)) ∧
        (∀ j, j < k ∨ k + 4 ≤ j → t.secret[j]? = s.secret[j]?)) ∧
    (∀ b0 b1 b2 b3 : Byte,
      ((k + 4 ≤ s.cfg.srcSize ∧ s.inputs = .read .word (s.cfg.base + 0x10000 + k) :: rest ∧
          Memory.byteAt s.src k = some b0 ∧ Memory.byteAt s.src (k + 1) = some b1 ∧
          Memory.byteAt s.src (k + 2) = some b2 ∧ Memory.byteAt s.src (k + 3) = some b3) ∨
        (k + 4 ≤ s.cfg.dstSize ∧ s.inputs = .read .word (s.cfg.base + 0x20000 + k) :: rest ∧
          Memory.byteAt s.dst k = some b0 ∧ Memory.byteAt s.dst (k + 1) = some b1 ∧
          Memory.byteAt s.dst (k + 2) = some b2 ∧ Memory.byteAt s.dst (k + 3) = some b3) ∨
        (s.rx.valid = true ∧ k + 4 ≤ s.rx.len.toNat ∧ s.inputs = .read .word (s.cfg.base + 0x40000 + k) :: rest ∧
          Memory.byteAt s.rx.buf k = some b0 ∧ Memory.byteAt s.rx.buf (k + 1) = some b1 ∧
          Memory.byteAt s.rx.buf (k + 2) = some b2 ∧ Memory.byteAt s.rx.buf (k + 3) = some b3) ∨
        (k + 4 ≤ 32 ∧ s.inputs = .read .word (s.cfg.base + 0x100 + k) :: rest ∧
          s.secret[k]? = some b0 ∧ s.secret[k + 1]? = some b1 ∧ s.secret[k + 2]? = some b2 ∧
          s.secret[k + 3]? = some b3)) →
      step s = .next { s with inputs := rest, lastRead := some (b3 ++ b2 ++ b1 ++ b0) })

/-- 10_state R40-R42: a host read of an SRC or DST word with an undefined byte gives the defined bytes exactly and takes every
undefined one from a fresh unconstrained word; so does a read of an RXBUF word that is not all inside `RXBUF[0..RX_LEN)` of a
valid result, for the bytes outside it, whatever is stored there (log 12); inside it every byte is defined. The form of the free
value is the model's (log 5), and so are the lanes past the end of an odd-sized buffer (log 10). -/
def Obligations.UndefinedBytesReadAsFreeValues : Prop :=
  (∀ (s : State) (rest : List Input) (k : Nat), s.cfg.Legal → k % 4 = 0 → s.cuBusy = false →
    (k < s.cfg.srcSize → s.inputs = .read .word (s.cfg.base + 0x10000 + k) :: rest →
      (∃ i, i < 4 ∧ Memory.byteAt s.src (k + i) = none) →
      ∃ v, step s = .next { s with inputs := rest, lastRead := some v, draws := s.draws + 1 } ∧
        ∀ i, i < 4 → v.extractLsb' (8 * i) 8 =
          (Memory.byteAt s.src (k + i)).getD ((Config.freeWord s.draws).extractLsb' (8 * i) 8)) ∧
    (k < s.cfg.dstSize → s.inputs = .read .word (s.cfg.base + 0x20000 + k) :: rest →
      (∃ i, i < 4 ∧ Memory.byteAt s.dst (k + i) = none) →
      ∃ v, step s = .next { s with inputs := rest, lastRead := some v, draws := s.draws + 1 } ∧
        ∀ i, i < 4 → v.extractLsb' (8 * i) 8 =
          (Memory.byteAt s.dst (k + i)).getD ((Config.freeWord s.draws).extractLsb' (8 * i) 8)) ∧
    (k < s.cfg.rxbufSize → s.inputs = .read .word (s.cfg.base + 0x40000 + k) :: rest →
      (s.rx.valid = false ∨ s.rx.len.toNat ≤ k) →
      step s = .next { s with
        inputs := rest, lastRead := some (Config.freeWord s.draws), draws := s.draws + 1 }) ∧
    (k < s.cfg.rxbufSize → s.inputs = .read .word (s.cfg.base + 0x40000 + k) :: rest →
      s.rx.valid = true → k < s.rx.len.toNat → s.rx.len.toNat < k + 4 →
      ∃ v, step s = .next { s with inputs := rest, lastRead := some v, draws := s.draws + 1 } ∧
        (∀ i b, k + i < s.rx.len.toNat → Memory.byteAt s.rx.buf (k + i) = some b → v.extractLsb' (8 * i) 8 = b) ∧
        (∀ i, i < 4 → s.rx.len.toNat ≤ k + i →
          v.extractLsb' (8 * i) 8 = (Config.freeWord s.draws).extractLsb' (8 * i) 8))) ∧
  (∀ (s : State) (k : Nat), s.rx.Inv → s.rx.valid = true → k < s.rx.len.toNat →
    (Memory.byteAt s.rx.buf k).isSome = true)

/-- 70_reset R294: while the CU is busy, RESULT, DST_LEN, CSUM and the DST window read as an unconstrained value, STATUS reads
exactly BUSY, the operand and RX registers read their values, and the SRC, SECRET and RXBUF windows read as they would idle. That
an output reads as one wholly free word, reserved bits included, is the model's reading (log 11) in its form of a free value
(log 5); that an odd-sized buffer's last word is mapped is its choice (log 10). So are the busy writes the rules leave open: a
write that reaches nothing is the bus error before it is a hazard (log 9), and one to the partial last word of an odd-sized SRC
is the hazard (log 10). -/
def Obligations.BusyAccesses : Prop :=
  (∀ (s : State) (rest : List Input) (off : Nat), s.cfg.Legal → s.StatusFits → s.cuBusy = true → off % 4 = 0 →
    s.inputs = .read .word (s.cfg.base + off) :: rest →
    ((off ∈ [0x018, 0x01C, 0x020] ∨ (0x20000 ≤ off ∧ off < 0x20000 + s.cfg.dstSize)) →
      step s = .next { s with
        inputs := rest, lastRead := some (Config.freeWord s.draws), draws := s.draws + 1 }) ∧
    (off = 0x004 → step s = .next { s with inputs := rest, lastRead := some 0x00000001 }) ∧
    (∀ p ∈ [(0x000, s.ctrlWord), (0x00C, s.srcLen.setWidth 32), (0x010, s.arg0), (0x014, s.arg1),
        (0x024, s.secretLen.setWidth 32), (0x040, 0), (0x044, 0), (0x048, s.rx.statusWord),
        (0x04C, s.rx.len.setWidth 32), (0x050, s.rx.csum)],
      off = p.1 → step s = .next { s with inputs := rest, lastRead := some p.2 }) ∧
    (((0x100 ≤ off ∧ off < 0x120) ∨ (0x10000 ≤ off ∧ off < 0x10000 + s.cfg.srcSize) ∨
        (0x40000 ≤ off ∧ off < 0x40000 + s.cfg.rxbufSize)) →
      ∃ t, step s = .next t ∧ step { s with cuBusy := false } = .next { t with cuBusy := false })) ∧
  (∀ (s : State) (rest : List Input) (width : Width) (addr : Nat) (v : Word), s.cfg.Legal → s.cuBusy = true →
    s.inputs = .write width addr v :: rest →
    (width ≠ .word ∨ addr % 4 ≠ 0 → step s = .fault (.busError addr)) ∧
    (∀ off, width = .word → addr = s.cfg.base + off → off % 4 = 0 →
      (0x10000 + s.cfg.srcSize ≤ off → off < 0x20000 → step s = .fault (.busError addr)) ∧
      (0x10000 ≤ off → off < 0x10000 + s.cfg.srcSize → 0x10000 + s.cfg.srcSize < off + 4 →
        step s = .fault (.hazardViolation .operandWrite))))

/-- 20_memory R68: no host read changes anything in the block, in any state. -/
def Obligations.ReadsHaveNoSideEffect : Prop :=
  ∀ (s t : State) (rest : List Input) (width : Width) (addr : Nat), s.inputs = .read width addr :: rest →
    step s = .next t → s.SameBlock t ∧ t.inputs = rest ∧ t.lastRead ≠ none

/-- 70_reset R290: what power-on reset leaves in every piece of the block's state; it is the state the machine starts in, but for
the model's own fields (log 6). -/
def Obligations.PowerOnResetState : Prop :=
  ∀ (s : State) (rest : List Input), s.inputs = .powerOn :: rest →
    ∃ t, step s = .next t ∧
      t = { State.reset with cfg := s.cfg, inputs := rest, lastRead := s.lastRead, draws := s.draws } ∧
      t.dskip = false ∧ t.cuBusy = false ∧ t.cuCmd = 0 ∧
      t.statusWord = 0 ∧ t.srcLen = 0 ∧ t.arg0 = 0 ∧ t.arg1 = 0 ∧ t.result = 0 ∧ t.dstLen = 0 ∧ t.csumA = 0 ∧
      t.csumB = 0 ∧ t.secretLen = 16 ∧
      t.secret.toList =
        [0x8B, 0x33, 0x87, 0xE9, 0xC5, 0xCD, 0xEA, 0x6A, 0xC9, 0xE5, 0xED, 0xBA, 0xA1, 0x15, 0xCD, 0x72,
         0, 0, 0, 0, 0, 0, 0, 0, 0, 0, 0, 0, 0, 0, 0, 0] ∧
      t.rx.statusWord = 0 ∧ t.rx.len = 0 ∧ t.rx.csum = 0 ∧ t.rx.rcnt = 0 ∧ t.rx.m0 = 0 ∧ t.rx.lhi = 0 ∧
      t.rx.ra = 0 ∧ t.rx.rb = 0 ∧ t.rx.c0 = 0 ∧
      ∀ k, Memory.byteAt t.src k = none ∧ Memory.byteAt t.dst k = none ∧ Memory.byteAt t.rx.buf k = none

/-- 70_reset R291, 10_state R24: a CTRL write with SRST = 1 is exactly the power-on reset, in every state, busy or not: the CU is
idle after it and the decoder is as after RX_RST. With SRST = 0 it writes DSKIP and nothing else. -/
def Obligations.CtrlWriteResetsOrSetsDskip : Prop :=
  ∀ (s : State) (rest : List Input) (v : Word), s.cfg.base % 4 = 0 →
    s.inputs = .write .word (s.cfg.base + 0x000) v :: rest →
    (v.getLsbD 0 = true → step s = step { s with inputs := .powerOn :: rest } ∧
      ∃ t, step s = .next t ∧ t.cuBusy = false ∧ t.done = false ∧ t.dskip = false ∧
        exec (.rxRst false false 0) s = .next { s with rx := t.rx }) ∧
    (v.getLsbD 0 = false → step s = .next { s with inputs := rest, dskip := v.getLsbD 1 })

/-! ## Checksum commands (40_checksum) -/

/-- 40_checksum R102. -/
def Obligations.CsumClrClearsAccumulators : Prop :=
  (∀ s : State, exec .csumClr s =
    .next { s with
      csumA := 0, csumB := 0, result := 0, cuBusy := false, done := true, ecode := .noError, esub := .noError }) ∧
  CommandEncoding 0x01 .csumClr

/-- 40_checksum R103. -/
def Obligations.CsumAccFoldsSrcIntoAccumulators : Prop :=
  (∀ s : State,
    (s.SrcReady → exec .csumAcc s =
      .next { s with
        csumA := (fletcher s.csumA s.csumB s.srcData).1, csumB := (fletcher s.csumA s.csumB s.srcData).2,
        result := (0 : BitVec 16) ++ (fletcher s.csumA s.csumB s.srcData).2 ++ (fletcher s.csumA s.csumB s.srcData).1,
        cuBusy := false, done := true, ecode := .noError, esub := .noError }) ∧
    (s.cfg.srcSize < s.srcLen.toNat → exec .csumAcc s = .next (s.raiseError .srcLenRange)) ∧
    (s.srcLen.toNat ≤ s.cfg.srcSize → ¬ s.SrcDefined 0 s.srcLen.toNat →
      s.FaultsAtUndefined 0 s.srcLen.toNat (exec .csumAcc s))) ∧
  CommandEncoding 0x02 .csumAcc

/-- 40_checksum R104. -/
def Obligations.CsumComputeWritesChecksum : Prop :=
  (∀ s : State,
    (s.SrcReady → 2 ≤ s.cfg.dstSize → ∃ t, exec .csumCompute s = .next t ∧
      t = { s with
        csumA := (fletcher 0 0 s.srcData).1, csumB := (fletcher 0 0 s.srcData).2,
        result := (0 : BitVec 16) ++ (fletcher 0 0 s.srcData).2 ++ (fletcher 0 0 s.srcData).1,
        dst := t.dst, dstLen := 2, cuBusy := false, done := true, ecode := .noError, esub := .noError } ∧
      Memory.byteAt t.dst 0 = some (fletcher 0 0 s.srcData).2 ∧
      Memory.byteAt t.dst 1 = some (fletcher 0 0 s.srcData).1 ∧
      ∀ k, 2 ≤ k → Memory.byteAt t.dst k = Memory.byteAt s.dst k) ∧
    (s.cfg.srcSize < s.srcLen.toNat → exec .csumCompute s = .next (s.raiseError .srcLenRange)) ∧
    (s.srcLen.toNat ≤ s.cfg.srcSize → s.cfg.dstSize < 2 → exec .csumCompute s = .next (s.raiseError .outOvf)) ∧
    (s.srcLen.toNat ≤ s.cfg.srcSize → 2 ≤ s.cfg.dstSize → ¬ s.SrcDefined 0 s.srcLen.toNat →
      s.FaultsAtUndefined 0 s.srcLen.toNat (exec .csumCompute s))) ∧
  CommandEncoding 0x03 .csumCompute

/-- 40_checksum R105: a mismatch is RESULT = 0, not an error. -/
def Obligations.CsumVerifyComparesChecksum : Prop :=
  (∀ s : State,
    (s.SrcReady → s.arg0.toNat < 0x10000 → exec .csumVerify s =
      .next { s with
        csumA := (fletcher 0 0 s.srcData).1, csumB := (fletcher 0 0 s.srcData).2,
        result := if s.arg0.extractLsb' 8 8 = (fletcher 0 0 s.srcData).2 ∧
          s.arg0.extractLsb' 0 8 = (fletcher 0 0 s.srcData).1 then 1 else 0,
        cuBusy := false, done := true, ecode := .noError, esub := .noError }) ∧
    (s.cfg.srcSize < s.srcLen.toNat → exec .csumVerify s = .next (s.raiseError .srcLenRange)) ∧
    (s.srcLen.toNat ≤ s.cfg.srcSize → 0x10000 ≤ s.arg0.toNat →
      exec .csumVerify s = .next (s.raiseError .argRange)) ∧
    (s.srcLen.toNat ≤ s.cfg.srcSize → s.arg0.toNat < 0x10000 → ¬ s.SrcDefined 0 s.srcLen.toNat →
      s.FaultsAtUndefined 0 s.srcLen.toNat (exec .csumVerify s))) ∧
  CommandEncoding 0x04 .csumVerify

/-- 40_checksum R107: the fold over a concatenation is the fold over the first part and then over the second; so two
`CSUM_ACC` from cleared accumulators leave the CSUM that one `CSUM_COMPUTE` over the whole leaves, and a decoder that folded the
body byte by byte holds the body's checksum. -/
def Obligations.RunningSumEqualsOneShot : Prop :=
  (∀ (a b : Byte) (d e : List Byte),
    fletcher a b (d ++ e) = fletcher (fletcher a b d).1 (fletcher a b d).2 e) ∧
  (∀ u u' v v' w w' : State, u.csumA = 0 → u.csumB = 0 → u.SrcReady → exec .csumAcc u = .next u' →
    v.csumA = u'.csumA → v.csumB = u'.csumB → v.SrcReady → exec .csumAcc v = .next v' →
    w.SrcReady → 2 ≤ w.cfg.dstSize → w.srcData = u.srcData ++ v.srcData → exec .csumCompute w = .next w' →
    v'.csumWord = w'.csumWord) ∧
  (∀ s : State, s.rx.Inv → s.rx.state = .csum → [s.rx.rb, s.rx.ra] = checksum s.rx.bodyBytes)

/-- 40_checksum R108: the closed form of both accumulators, and what a changed byte does: the checksum stays exactly when the
byte is the same or `00` and `FF` were exchanged. -/
def Obligations.ChecksumClosedFormAndDetection : Prop :=
  ∀ d : List Byte,
    (fletcher 0 0 d).1.toNat = (d.map BitVec.toNat).sum % 255 ∧
    (fletcher 0 0 d).2.toNat = (d.mapIdx fun i x => (d.length - i) * x.toNat).sum % 255 ∧
    ∀ (i : Nat) (y : Byte) (hi : i < d.length),
      checksum (d.set i y) = checksum d ↔ (y = d[i] ∨ (y = 0x00 ∧ d[i] = 0xFF) ∨ (y = 0xFF ∧ d[i] = 0x00))

/-- 40_checksum R109: the RESULT of `CSUM_COMPUTE`, given to `CSUM_VERIFY` over the same bytes, verifies. -/
def Obligations.VerifyOfComputeIsTrue : Prop :=
  ∀ s t u : State, s.SrcReady → 2 ≤ s.cfg.dstSize → exec .csumCompute s = .next t →
    u.cfg = s.cfg → u.srcLen = s.srcLen → u.src = s.src → u.arg0 = t.result →
    ∃ v, exec .csumVerify u = .next v ∧ v.result = 1 ∧ v.ecode = .noError

/-! ## Frame codec (41_frame_codec) -/

/-- 41_frame_codec R121, with the frame of R120 written out byte by byte. -/
def Obligations.FrameEncodeWritesFrame : Prop :=
  (∀ s : State,
    (s.SrcReady → s.srcLen.toNat ≤ 65535 → s.srcLen.toNat + 6 ≤ s.cfg.dstSize → ∃ t, exec .frameEncode s = .next t ∧
      t = { s with
        dst := t.dst, dstLen := BitVec.ofNat 18 (s.srcLen.toNat + 6),
        result := (0 : BitVec 16) ++ (fletcher 0 0 s.srcData).2 ++ (fletcher 0 0 s.srcData).1,
        cuBusy := false, done := true, ecode := .noError, esub := .noError } ∧
      Memory.byteAt t.dst 0 = some 0xC0 ∧ Memory.byteAt t.dst 1 = some 0x3E ∧
      Memory.byteAt t.dst 2 = some (BitVec.ofNat 8 (s.srcLen.toNat / 256)) ∧
      Memory.byteAt t.dst 3 = some (BitVec.ofNat 8 (s.srcLen.toNat % 256)) ∧
      (∀ k, k < s.srcLen.toNat → Memory.byteAt t.dst (4 + k) = Memory.byteAt s.src k) ∧
      Memory.byteAt t.dst (s.srcLen.toNat + 4) = some (fletcher 0 0 s.srcData).2 ∧
      Memory.byteAt t.dst (s.srcLen.toNat + 5) = some (fletcher 0 0 s.srcData).1 ∧
      ∀ k, s.srcLen.toNat + 6 ≤ k → Memory.byteAt t.dst k = Memory.byteAt s.dst k) ∧
    (s.cfg.srcSize < s.srcLen.toNat → exec .frameEncode s = .next (s.raiseError .srcLenRange)) ∧
    (s.srcLen.toNat ≤ s.cfg.srcSize → 65535 < s.srcLen.toNat →
      exec .frameEncode s = .next (s.raiseError .frameLen)) ∧
    (s.srcLen.toNat ≤ s.cfg.srcSize → s.srcLen.toNat ≤ 65535 → s.cfg.dstSize < s.srcLen.toNat + 6 →
      exec .frameEncode s = .next (s.raiseError .outOvf)) ∧
    (s.srcLen.toNat ≤ s.cfg.srcSize → s.srcLen.toNat ≤ 65535 → s.srcLen.toNat + 6 ≤ s.cfg.dstSize →
      ¬ s.SrcDefined 0 s.srcLen.toNat → s.FaultsAtUndefined 0 s.srcLen.toNat (exec .frameEncode s))) ∧
  CommandEncoding 0x10 .frameEncode

/-- 41_frame_codec R124, R125: both magic bytes; the comparison comes after the second; with DSKIP = 1 a `0A` before the first
is discarded. -/
def Obligations.RxByteInMagic : Prop :=
  ∀ (s : State) (x : Byte) (ignored : BitVec 24), s.rx.state = .magic →
    (s.rx.rcnt = 0 → exec (.rxByte x ignored) s =
      .next (if s.dskip = true ∧ x = 0x0A then s else { s with rx := { s.rx with m0 := x, rcnt := 1 } })) ∧
    (s.rx.rcnt = 1 → exec (.rxByte x ignored) s =
      .next { s with rx :=
        if s.rx.m0 = 0xC0 ∧ x = 0x3E then { s.rx with rcnt := 0, state := .length }
        else { s.rx with rcnt := 0, state := .hold, valid := false, ecode := .badMagic } })

/-- 41_frame_codec R126: the length bytes, big-endian. -/
def Obligations.RxByteInLength : Prop :=
  ∀ (s : State) (x : Byte) (ignored : BitVec 24), s.rx.state = .length →
    (s.rx.rcnt = 0 → exec (.rxByte x ignored) s = .next { s with rx := { s.rx with lhi := x, rcnt := 1 } }) ∧
    (s.rx.rcnt = 1 → ∃ t, exec (.rxByte x ignored) s = .next t ∧
      t = { s with rx := { s.rx with
        len := t.rx.len, ra := 0, rb := 0, rcnt := 0, buf := t.rx.buf,
        state := if t.rx.len = 0 then .csum else .body } } ∧
      t.rx.len.toNat = 256 * s.rx.lhi.toNat + x.toNat ∧ ∀ k, Memory.byteAt t.rx.buf k = none)

/-- 41_frame_codec R127: a body byte is stored, folded and counted; the write is in range. -/
def Obligations.RxByteInBody : Prop :=
  ∀ (s : State) (x : Byte) (ignored : BitVec 24), s.rx.state = .body → s.rx.rcnt < s.rx.len.toNat →
    (∃ t, exec (.rxByte x ignored) s = .next t ∧
      t = { s with rx := { s.rx with
        buf := t.rx.buf, ra := t.rx.ra, rb := t.rx.rb,
        rcnt := if s.rx.rcnt + 1 = s.rx.len.toNat then 0 else s.rx.rcnt + 1,
        state := if s.rx.rcnt + 1 = s.rx.len.toNat then .csum else .body } } ∧
      Memory.byteAt t.rx.buf s.rx.rcnt = some x ∧
      (∀ k, k ≠ s.rx.rcnt → Memory.byteAt t.rx.buf k = Memory.byteAt s.rx.buf k) ∧
      t.rx.ra.toNat = (s.rx.ra.toNat + x.toNat) % 255 ∧
      t.rx.rb.toNat = (s.rx.rb.toNat + t.rx.ra.toNat) % 255) ∧
    (s.cfg.Legal → s.rx.rcnt < s.cfg.rxbufSize)

/-- 41_frame_codec R129, R130: the checksum bytes; success holds the body, a mismatch discards it; a received `FF` always
mismatches. -/
def Obligations.RxByteInCsum : Prop :=
  ∀ (s : State) (x : Byte) (ignored : BitVec 24), s.rx.state = .csum →
    (s.rx.rcnt = 0 → exec (.rxByte x ignored) s = .next { s with rx := { s.rx with c0 := x, rcnt := 1 } }) ∧
    (s.rx.rcnt = 1 → s.rx.c0 = s.rx.rb ∧ x = s.rx.ra → exec (.rxByte x ignored) s =
      .next { s with rx := { s.rx with
        csum := s.rx.rb ++ s.rx.ra ++ s.rx.c0 ++ x, rcnt := 0, state := .hold, valid := true, ecode := .noError } }) ∧
    (s.rx.rcnt = 1 → ¬ (s.rx.c0 = s.rx.rb ∧ x = s.rx.ra) → ∃ t, exec (.rxByte x ignored) s = .next t ∧
      t = { s with rx := { s.rx with
        csum := s.rx.rb ++ s.rx.ra ++ s.rx.c0 ++ x, rcnt := 0, state := .hold, valid := false,
        ecode := .checksumMismatch, buf := t.rx.buf } } ∧
      ∀ k, Memory.byteAt t.rx.buf k = none) ∧
    (s.rx.Inv → (s.rx.ra, s.rx.rb) = fletcher 0 0 s.rx.bodyBytes) ∧
    (s.rx.Inv → s.rx.rcnt = 1 → s.rx.c0 = 0xFF ∨ x = 0xFF →
      ∃ t, exec (.rxByte x ignored) s = .next t ∧ t.rx.valid = false ∧ t.rx.ecode = .checksumMismatch)

/-- 41_frame_codec R131: a byte while a result is held, or after the end of the stream, is dropped and sets OVF. -/
def Obligations.RxByteInHoldOrClosedIsDropped : Prop :=
  ∀ (s : State) (x : Byte) (ignored : BitVec 24), s.rx.state = .hold ∨ s.rx.state = .closed →
    exec (.rxByte x ignored) s = .next { s with rx := { s.rx with ovf := true } }

/-- 41_frame_codec R133: the end of the stream, in each state of the decoder; only an RX_CTRL write with RST = 1 or a reset of the
block leaves CLOSED. -/
def Obligations.RxEosTruncatesOrMarks : Prop :=
  (∀ (s : State) (ignored : BitVec 29),
    (s.rx.state ≠ .hold → s.rx.state ≠ .closed → ∃ t, exec (.rxEos false ignored) s = .next t ∧
      t = { s with rx := { s.rx with
        eosf := true, state := .closed, valid := false, ecode := .truncated, rcnt := 0, buf := t.rx.buf } } ∧
      ∀ k, Memory.byteAt t.rx.buf k = none) ∧
    (s.rx.state = .hold ∨ s.rx.state = .closed →
      exec (.rxEos false ignored) s = .next { s with rx := { s.rx with eosf := true } })) ∧
  (∀ s t : State, s.rx.state = .closed → step s = .next t → t.rx.state = .closed ∨
    ∃ rest, s.inputs = .powerOn :: rest ∨
      ∃ v, (s.inputs = .write .word s.cfg.base v :: rest ∧ v.getLsbD 0 = true) ∨
        (s.inputs = .write .word (s.cfg.base + 0x40) v :: rest ∧ v.getLsbD 2 = true))

/-- 41_frame_codec R134: the acknowledge, in each state of the decoder. -/
def Obligations.RxAckReleasesHeldResult : Prop :=
  ∀ (s : State) (ignored : BitVec 29),
    (s.rx.state = .hold → ∃ t, exec (.rxAck false ignored) s = .next t ∧
      (s.rx.eosf = true → t = { s with rx := { s.rx with
        valid := false, ovf := false, state := .closed, ecode := .truncated, buf := t.rx.buf } }) ∧
      (s.rx.eosf = false → t = { s with rx := { s.rx with
        valid := false, ovf := false, state := .magic, ecode := .noError, rcnt := 0, buf := t.rx.buf } }) ∧
      ∀ k, Memory.byteAt t.rx.buf k = none) ∧
    (s.rx.state ≠ .hold → exec (.rxAck false ignored) s = .next s)

/-- 41_frame_codec R135: the RX reset; DSKIP and all CU state are unchanged. -/
def Obligations.RxRstResetsDecoder : Prop :=
  ∀ (s : State) (ack eos : Bool) (ignored : BitVec 29),
    ∃ t, exec (.rxRst ack eos ignored) s = .next t ∧ t = { s with rx := t.rx } ∧
      t.rx = { t.rx with
        state := .magic, rcnt := 0, m0 := 0, lhi := 0, ra := 0, rb := 0, c0 := 0, valid := false, ovf := false,
        eosf := false, ecode := .noError, len := 0, csum := 0 } ∧
      ∀ k, Memory.byteAt t.rx.buf k = none

/-- 41_frame_codec R136: several RX_CTRL bits in one write: RST acts alone, ACK comes before EOS, and from HOLD both orders end
in CLOSED with Truncated. -/
def Obligations.RxCtrlBitsTogether : Prop :=
  ∀ (s : State) (ack eos : Bool) (ignored : BitVec 29),
    exec (.rxRst ack eos ignored) s = exec (.rxRst false false 0) s ∧
    (∃ t, exec (.rxAck false ignored) s = .next t ∧
      exec (.rxAck true ignored) s = exec (.rxEos false ignored) t ∧
      exec (.rxEos true ignored) s = exec (.rxEos false ignored) t) ∧
    (s.rx.state = .hold → ∃ t u v, exec (.rxAck true ignored) s = .next t ∧ exec (.rxEos false ignored) s = .next u ∧
      exec (.rxAck false ignored) u = .next v ∧ t.rx.state = .closed ∧ t.rx.ecode = .truncated ∧
      v.rx.state = .closed ∧ v.rx.ecode = .truncated)

/-- 41_frame_codec R137: feeding the bytes of a frame, one RX_DATA write each, to a decoder between frames holds the packet,
for every packet and either DSKIP value. -/
def Obligations.DecodeOfEncodedFrameIsPacket : Prop :=
  ∀ (p : List Byte) (s : State) (rest : List Input), p.length ≤ 65535 → s.cfg.base % 4 = 0 →
    s.rx.state = .magic → s.rx.rcnt = 0 → s.inputs = feedInputs s.cfg (frameEncode p) ++ rest →
    ∃ t, core.run (p.length + 6) s = .next t ∧ t = { s with inputs := rest, rx := t.rx } ∧
      t.rx.state = .hold ∧ t.rx.valid = true ∧ t.rx.ecode = .noError ∧ t.rx.len.toNat = p.length ∧
      ∀ k, k < p.length → Memory.byteAt t.rx.buf k = p[k]?

/-- 41_frame_codec R138: with one body byte of a frame replaced, the decoder reports ChecksumMismatch, unless `00` and `FF` were
exchanged: then it delivers the corrupted body. -/
def Obligations.CorruptedBodyByteDetectedButForZeroAndFF : Prop :=
  ∀ (p : List Byte) (s : State) (rest : List Input) (i : Nat) (y : Byte) (hi : i < p.length), p.length ≤ 65535 →
    s.cfg.base % 4 = 0 → s.rx.state = .magic → s.rx.rcnt = 0 → y ≠ p[i] →
    s.inputs = feedInputs s.cfg ((frameEncode p).set (4 + i) y) ++ rest →
    ∃ t, core.run (p.length + 6) s = .next t ∧ t.rx.state = .hold ∧
      ((y = 0x00 ∧ p[i] = 0xFF) ∨ (y = 0xFF ∧ p[i] = 0x00) →
        t.rx.valid = true ∧ t.rx.ecode = .noError ∧ t.rx.len.toNat = p.length ∧
          ∀ k, k < p.length → Memory.byteAt t.rx.buf k = (p.set i y)[k]?) ∧
      (¬ ((y = 0x00 ∧ p[i] = 0xFF) ∨ (y = 0xFF ∧ p[i] = 0x00)) →
        t.rx.valid = false ∧ t.rx.ecode = .checksumMismatch)

/-! ## Packet header (42_packet_header) -/

/-- 42_packet_header R163. -/
def Obligations.HdrPackPacksRouteAndType : Prop :=
  (∀ s : State,
    (s.arg0.toNat ≤ 3 → s.arg1.toNat ≤ 15 → ∃ t, exec .hdrPack s = .next t ∧
      t = { s with result := t.result, cuBusy := false, done := true, ecode := .noError, esub := .noError } ∧
      t.result.toNat = 4 * s.arg1.toNat + s.arg0.toNat) ∧
    (3 < s.arg0.toNat ∨ 15 < s.arg1.toNat → exec .hdrPack s = .next (s.raiseError .argRange))) ∧
  CommandEncoding 0x20 .hdrPack

/-- 42_packet_header R164. -/
def Obligations.HdrUnpackSplitsHeader : Prop :=
  (∀ s : State,
    (s.arg0.toNat < 256 → ∃ t, exec .hdrUnpack s = .next t ∧
      t = { s with result := t.result, cuBusy := false, done := true, ecode := .noError, esub := .noError } ∧
      t.result.toNat = s.arg0.toNat / 64 * 65536 + s.arg0.toNat / 4 % 16 * 256 + s.arg0.toNat % 4) ∧
    (256 ≤ s.arg0.toNat → exec .hdrUnpack s = .next (s.raiseError .argRange))) ∧
  CommandEncoding 0x21 .hdrUnpack

/-- 42_packet_header R166: with `SRC[1]` as path length the payload goes to DST; the checks come in the order shown, and the
path bytes are not read. -/
def Obligations.PktParseSplitsPacket : Prop :=
  (∀ s : State, s.srcLen.toNat ≤ s.cfg.srcSize → 2 ≤ s.srcLen.toNat →
    (∀ h pl : Byte, Memory.byteAt s.src 0 = some h → Memory.byteAt s.src 1 = some pl →
      pl.toNat + 2 ≤ s.srcLen.toNat → s.srcLen.toNat - 2 - pl.toNat ≤ s.cfg.dstSize →
      s.SrcDefined (2 + pl.toNat) s.srcLen.toNat → ∃ t, exec .pktParse s = .next t ∧
        t = { s with
          result := t.result, dst := t.dst, dstLen := BitVec.ofNat 18 (s.srcLen.toNat - 2 - pl.toNat),
          cuBusy := false, done := true, ecode := .noError, esub := .noError } ∧
        t.result.toNat =
          pl.toNat * 16777216 + h.toNat / 64 * 65536 + h.toNat / 4 % 16 * 256 + h.toNat % 4 ∧
        (∀ k, k < s.srcLen.toNat - 2 - pl.toNat →
          Memory.byteAt t.dst k = Memory.byteAt s.src (2 + pl.toNat + k)) ∧
        ∀ k, s.srcLen.toNat - 2 - pl.toNat ≤ k → Memory.byteAt t.dst k = Memory.byteAt s.dst k) ∧
    (∀ pl : Byte, Memory.byteAt s.src 1 = some pl → s.srcLen.toNat < pl.toNat + 2 →
      exec .pktParse s = .next (s.raiseError .pathOverrun)) ∧
    (∀ pl : Byte, Memory.byteAt s.src 1 = some pl → pl.toNat + 2 ≤ s.srcLen.toNat →
      s.cfg.dstSize < s.srcLen.toNat - 2 - pl.toNat → exec .pktParse s = .next (s.raiseError .outOvf)) ∧
    (Memory.byteAt s.src 1 = none → s.FaultsAtUndefined 0 s.srcLen.toNat (exec .pktParse s)) ∧
    (∀ pl : Byte, Memory.byteAt s.src 1 = some pl → pl.toNat + 2 ≤ s.srcLen.toNat →
      s.srcLen.toNat - 2 - pl.toNat ≤ s.cfg.dstSize →
      (Memory.byteAt s.src 0 = none ∨ ¬ s.SrcDefined (2 + pl.toNat) s.srcLen.toNat →
        s.FaultsAtUndefined 0 1 (exec .pktParse s) ∨
          s.FaultsAtUndefined (2 + pl.toNat) s.srcLen.toNat (exec .pktParse s)))) ∧
  (∀ s : State,
    (s.cfg.srcSize < s.srcLen.toNat → exec .pktParse s = .next (s.raiseError .srcLenRange)) ∧
    (s.srcLen.toNat ≤ s.cfg.srcSize → s.srcLen.toNat < 2 → exec .pktParse s = .next (s.raiseError .pktShort))) ∧
  CommandEncoding 0x22 .pktParse

/-- 42_packet_header R167: unpack of pack, and pack with the reserved bits put back of unpack. -/
def Obligations.HeaderRoundTrips : Prop :=
  (∀ (route : BitVec 2) (type : BitVec 4),
    headerRoute (headerPack route type) = route ∧ headerType (headerPack route type) = type ∧
      headerRsv (headerPack route type) = 0) ∧
  (∀ h : Byte,
    (headerRsv h).toNat * 64 + (headerType h).toNat * 4 + (headerRoute h).toNat = h.toNat)

/-! ## Channel crypto and primitives (43_channel_crypto, 45_primitives) -/

/-- 43_channel_crypto R181: the hash covers the whole secret (R180). -/
def Obligations.ChashHashesSecret : Prop :=
  (∀ s : State,
    (s.SecretLegal → exec .chash s =
      .next { s with
        result := (0 : BitVec 24) ++ (sha256 (s.secret.toList.take s.secretLen.toNat)).getD 0 0,
        cuBusy := false, done := true, ecode := .noError, esub := .noError }) ∧
    (¬ s.SecretLegal → exec .chash s = .next (s.raiseError .secretLen))) ∧
  CommandEncoding 0x30 .chash

/-- 43_channel_crypto R186 with R184 and R185: DST is the first two bytes of the HMAC, under the first 32 bytes of the secret, of the
ciphertext alone, and then the ciphertext (`CiphertextIsBlockwiseAes`). AES-128 needs 16 secret bytes: parameters that admit fewer are
outside the model's legal ones (log 20) and left out. -/
def Obligations.EncMacWritesMacAndCiphertext : Prop :=
  (∀ s : State,
    (s.SrcReady → s.SecretLegal → 16 ≤ s.secretLen.toNat → 2 + ceil16 s.srcLen.toNat ≤ s.cfg.dstSize →
      ∃ t, exec .encMac s = .next t ∧
        t = { s with
          dst := t.dst, dstLen := BitVec.ofNat 18 (2 + ceil16 s.srcLen.toNat), result := t.result,
          cuBusy := false, done := true, ecode := .noError, esub := .noError } ∧
        (∀ k, k < 2 → Memory.byteAt t.dst k =
          (hmacSha256 (s.secretBytes.take 32) (ecbEncrypt s.secretBytes s.srcData))[k]?) ∧
        (∀ k, k < ceil16 s.srcLen.toNat →
          Memory.byteAt t.dst (2 + k) = (ecbEncrypt s.secretBytes s.srcData)[k]?) ∧
        (∀ k, 2 + ceil16 s.srcLen.toNat ≤ k → Memory.byteAt t.dst k = Memory.byteAt s.dst k) ∧
        t.result = (0 : BitVec 16) ++
          (hmacSha256 (s.secretBytes.take 32) (ecbEncrypt s.secretBytes s.srcData)).getD 0 0 ++
          (hmacSha256 (s.secretBytes.take 32) (ecbEncrypt s.secretBytes s.srcData)).getD 1 0) ∧
    (s.cfg.srcSize < s.srcLen.toNat → exec .encMac s = .next (s.raiseError .srcLenRange)) ∧
    (s.srcLen.toNat ≤ s.cfg.srcSize → ¬ s.SecretLegal → exec .encMac s = .next (s.raiseError .secretLen)) ∧
    (s.srcLen.toNat ≤ s.cfg.srcSize → s.SecretLegal → s.cfg.dstSize < 2 + ceil16 s.srcLen.toNat →
      exec .encMac s = .next (s.raiseError .outOvf)) ∧
    (s.srcLen.toNat ≤ s.cfg.srcSize → s.SecretLegal → 2 + ceil16 s.srcLen.toNat ≤ s.cfg.dstSize →
      ¬ s.SrcDefined 0 s.srcLen.toNat → s.FaultsAtUndefined 0 s.srcLen.toNat (exec .encMac s))) ∧
  CommandEncoding 0x31 .encMac

/-- 43_channel_crypto R183 with the padding of R182 and the lengths of R188: block `j` of the ciphertext is the AES-128
encryption of block `j` of the padded plaintext alone, and there are `ceil16` bytes of it. -/
def Obligations.CiphertextIsBlockwiseAes : Prop :=
  ∀ secret pt : List Byte, 16 ≤ secret.length →
    (ecbEncrypt secret pt).length = ceil16 pt.length ∧
    ∀ j, 16 * j < ceil16 pt.length →
      ((ecbEncrypt secret pt).drop (16 * j)).take 16 =
        aes128 (secret.take 16) (((pt ++ zeros (ceil16 pt.length - pt.length)).drop (16 * j)).take 16)

/-- 43_channel_crypto R189: trailing zero bytes that do not reach a new block change neither the padded plaintext nor the
output; the output is the MAC and then the ciphertext (R185). -/
def Obligations.TrailingZerosEncryptAlike : Prop :=
  (∀ (secret pt : List Byte) (k : Nat), ceil16 (pt.length + k) = ceil16 pt.length →
    padBlock (pt ++ zeros k) = padBlock pt ∧ encryptThenMac secret (pt ++ zeros k) = encryptThenMac secret pt) ∧
  (∀ secret pt : List Byte, encryptThenMac secret pt =
    (hmacSha256 (secret.take 32) (ecbEncrypt secret pt)).take 2 ++ ecbEncrypt secret pt)

/-- 45_primitives R240, R241 (log 17), and 43_channel_crypto R184 by them: the HMAC is the outer hash over the inner one, 32 bytes,
with the block key by the key's length; a key and the same key with zero bytes appended, up to 64 bytes, give the same HMAC. The
MAC is its first two bytes under the first 32 bytes of the secret; a secret shorter than 32 bytes and the same secret zero-padded
to 32 give the same one. -/
def Obligations.ZeroPaddedKeyGivesSameMac : Prop :=
  (∀ k m : List Byte, hmacSha256 k m =
      sha256 ((hmacBlockKey k).map (· ^^^ 0x5C) ++ sha256 ((hmacBlockKey k).map (· ^^^ 0x36) ++ m)) ∧
    (hmacBlockKey k).length = 64 ∧ (hmacSha256 k m).length = 32) ∧
  (∀ k : List Byte, (k.length ≤ 64 → hmacBlockKey k = k ++ zeros (64 - k.length)) ∧
    (64 < k.length → hmacBlockKey k = sha256 k ++ zeros 32)) ∧
  (∀ (k m : List Byte) (z : Nat), k.length + z ≤ 64 → hmacSha256 (k ++ zeros z) m = hmacSha256 k m) ∧
  (∀ secret ct : List Byte, macOf secret ct = (hmacSha256 (secret.take 32) ct).take 2) ∧
  (∀ (secret ct : List Byte), secret.length ≤ 32 →
    macOf (secret ++ zeros (32 - secret.length)) ct = macOf secret ct)

/-- 45_primitives R258, R227 and the vectors V-PR3 and V-PR4 of 95_test_vectors: the check vectors of AES-128, of SHA-256 over one block
and over two, and of HMAC-SHA256; a digest has 32 bytes (the spec supplies the primitives from general knowledge, log 17). -/
def Obligations.PrimitiveCheckVectors : Prop :=
  (aes128 [0x00, 0x01, 0x02, 0x03, 0x04, 0x05, 0x06, 0x07, 0x08, 0x09, 0x0A, 0x0B, 0x0C, 0x0D, 0x0E, 0x0F]
      [0x00, 0x11, 0x22, 0x33, 0x44, 0x55, 0x66, 0x77, 0x88, 0x99, 0xAA, 0xBB, 0xCC, 0xDD, 0xEE, 0xFF] =
    [0x69, 0xC4, 0xE0, 0xD8, 0x6A, 0x7B, 0x04, 0x30, 0xD8, 0xCD, 0xB7, 0x80, 0x70, 0xB4, 0xC5, 0x5A]) ∧
  (sha256 [0x61, 0x62, 0x63] =
    [0xBA, 0x78, 0x16, 0xBF, 0x8F, 0x01, 0xCF, 0xEA, 0x41, 0x41, 0x40, 0xDE, 0x5D, 0xAE, 0x22, 0x23,
     0xB0, 0x03, 0x61, 0xA3, 0x96, 0x17, 0x7A, 0x9C, 0xB4, 0x10, 0xFF, 0x61, 0xF2, 0x00, 0x15, 0xAD]) ∧
  (sha256
      [0x61, 0x62, 0x63, 0x64, 0x62, 0x63, 0x64, 0x65, 0x63, 0x64, 0x65, 0x66, 0x64, 0x65, 0x66, 0x67,
       0x65, 0x66, 0x67, 0x68, 0x66, 0x67, 0x68, 0x69, 0x67, 0x68, 0x69, 0x6A, 0x68, 0x69, 0x6A, 0x6B,
       0x69, 0x6A, 0x6B, 0x6C, 0x6A, 0x6B, 0x6C, 0x6D, 0x6B, 0x6C, 0x6D, 0x6E, 0x6C, 0x6D, 0x6E, 0x6F,
       0x6D, 0x6E, 0x6F, 0x70, 0x6E, 0x6F, 0x70, 0x71] =
    [0x24, 0x8D, 0x6A, 0x61, 0xD2, 0x06, 0x38, 0xB8, 0xE5, 0xC0, 0x26, 0x93, 0x0C, 0x3E, 0x60, 0x39,
     0xA3, 0x3C, 0xE4, 0x59, 0x64, 0xFF, 0x21, 0x67, 0xF6, 0xEC, 0xED, 0xD4, 0x19, 0xDB, 0x06, 0xC1]) ∧
  (hmacSha256 (List.replicate 20 0x0B) [0x48, 0x69, 0x20, 0x54, 0x68, 0x65, 0x72, 0x65] =
    [0xB0, 0x34, 0x4C, 0x61, 0xD8, 0xDB, 0x38, 0x53, 0x5C, 0xA8, 0xAF, 0xCE, 0xAF, 0x0B, 0xF1, 0x2B,
     0x88, 0x1D, 0xC2, 0x00, 0xC9, 0x83, 0x3D, 0xA7, 0x26, 0xE9, 0x37, 0x6C, 0x2E, 0x32, 0xCF, 0xF7]) ∧
  (∀ m : List Byte, (sha256 m).length = 32)

/-! ## Group text (44_group_text) -/

/-- 44_group_text R201: the plaintext of R200, byte by byte; RESULT is unchanged. -/
def Obligations.GtxtBuildWritesPlaintext : Prop :=
  (∀ s : State,
    (s.SrcReady → s.arg1.toNat ≤ s.srcLen.toNat → s.srcLen.toNat + 7 ≤ s.cfg.dstSize →
      ∃ t, exec .gtxtBuild s = .next t ∧
        t = { s with
          dst := t.dst, dstLen := BitVec.ofNat 18 (s.srcLen.toNat + 7),
          cuBusy := false, done := true, ecode := .noError, esub := .noError } ∧
        (∀ k, k < 4 → Memory.byteAt t.dst k = some (s.arg0.extractLsb' (8 * k) 8)) ∧
        Memory.byteAt t.dst 4 = some 0x00 ∧
        (∀ k, k < s.arg1.toNat → Memory.byteAt t.dst (5 + k) = Memory.byteAt s.src k) ∧
        Memory.byteAt t.dst (5 + s.arg1.toNat) = some 0x3A ∧ Memory.byteAt t.dst (6 + s.arg1.toNat) = some 0x20 ∧
        (∀ k, s.arg1.toNat ≤ k → k < s.srcLen.toNat → Memory.byteAt t.dst (7 + k) = Memory.byteAt s.src k) ∧
        ∀ k, s.srcLen.toNat + 7 ≤ k → Memory.byteAt t.dst k = Memory.byteAt s.dst k) ∧
    (s.cfg.srcSize < s.srcLen.toNat → exec .gtxtBuild s = .next (s.raiseError .srcLenRange)) ∧
    (s.srcLen.toNat ≤ s.cfg.srcSize → s.srcLen.toNat < s.arg1.toNat →
      exec .gtxtBuild s = .next (s.raiseError .argRange)) ∧
    (s.srcLen.toNat ≤ s.cfg.srcSize → s.arg1.toNat ≤ s.srcLen.toNat → s.cfg.dstSize < s.srcLen.toNat + 7 →
      exec .gtxtBuild s = .next (s.raiseError .outOvf)) ∧
    (s.srcLen.toNat ≤ s.cfg.srcSize → s.arg1.toNat ≤ s.srcLen.toNat → s.srcLen.toNat + 7 ≤ s.cfg.dstSize →
      ¬ s.SrcDefined 0 s.srcLen.toNat → s.FaultsAtUndefined 0 s.srcLen.toNat (exec .gtxtBuild s))) ∧
  CommandEncoding 0x40 .gtxtBuild

/-- 44_group_text R203, with the packet of R202 and the fixed bytes of R204; the MAC and the ciphertext are those of 43_channel_crypto
R183-R185 over the plaintext of R200; RESULT is unchanged. AES-128 needs 16 secret bytes: parameters that admit fewer are outside the
model's legal ones (log 20) and left out. -/
def Obligations.GtxtPacketWritesPacket : Prop :=
  (∀ (s : State) (pt ct : List Byte),
    pt = u32le s.arg0 ++ [0x00] ++ s.srcBytes 0 s.arg1.toNat ++ [0x3A, 0x20] ++ s.srcBytes s.arg1.toNat s.srcLen.toNat →
    ct = ecbEncrypt s.secretBytes pt →
    s.SrcReady → s.SecretLegal → 16 ≤ s.secretLen.toNat → s.arg1.toNat ≤ s.srcLen.toNat →
    5 + ceil16 (s.srcLen.toNat + 7) ≤ s.cfg.dstSize →
    ∃ t, exec .gtxtPacket s = .next t ∧
      t = { s with
        dst := t.dst, dstLen := BitVec.ofNat 18 (5 + ceil16 (s.srcLen.toNat + 7)),
        cuBusy := false, done := true, ecode := .noError, esub := .noError } ∧
      Memory.byteAt t.dst 0 = some 0x15 ∧ Memory.byteAt t.dst 1 = some 0x00 ∧
      Memory.byteAt t.dst 2 = (sha256 s.secretBytes)[0]? ∧
      (∀ k, k < 2 → Memory.byteAt t.dst (3 + k) = (hmacSha256 (s.secretBytes.take 32) ct)[k]?) ∧
      (∀ k, k < ceil16 (s.srcLen.toNat + 7) → Memory.byteAt t.dst (5 + k) = ct[k]?) ∧
      ∀ k, 5 + ceil16 (s.srcLen.toNat + 7) ≤ k → Memory.byteAt t.dst k = Memory.byteAt s.dst k) ∧
  (∀ s : State,
    (s.cfg.srcSize < s.srcLen.toNat → exec .gtxtPacket s = .next (s.raiseError .srcLenRange)) ∧
    (s.srcLen.toNat ≤ s.cfg.srcSize → ¬ s.SecretLegal → exec .gtxtPacket s = .next (s.raiseError .secretLen)) ∧
    (s.srcLen.toNat ≤ s.cfg.srcSize → s.SecretLegal → s.srcLen.toNat < s.arg1.toNat →
      exec .gtxtPacket s = .next (s.raiseError .argRange)) ∧
    (s.srcLen.toNat ≤ s.cfg.srcSize → s.SecretLegal → s.arg1.toNat ≤ s.srcLen.toNat →
      s.cfg.dstSize < 5 + ceil16 (s.srcLen.toNat + 7) → exec .gtxtPacket s = .next (s.raiseError .outOvf)) ∧
    (s.srcLen.toNat ≤ s.cfg.srcSize → s.SecretLegal → s.arg1.toNat ≤ s.srcLen.toNat →
      5 + ceil16 (s.srcLen.toNat + 7) ≤ s.cfg.dstSize → ¬ s.SrcDefined 0 s.srcLen.toNat →
      s.FaultsAtUndefined 0 s.srcLen.toNat (exec .gtxtPacket s))) ∧
  CommandEncoding 0x41 .gtxtPacket

/-- 44_group_text R205: at the default sizes no command ends in OUT_OVF; a `GTXT_PACKET` output is at most 65557 bytes, and it
fits a frame exactly when `SRC_LEN` is at most 65513. -/
def Obligations.DefaultSizesNeverOverflowDst : Prop :=
  (∀ (s t : State) (i : Instr), s.cfg.srcSize = 65536 → s.cfg.dstSize = 131072 → IsCommand i → exec i s = .next t →
    t.esub ≠ .outOvf) ∧
  (∀ n, n ≤ 65536 → 5 + ceil16 (n + 7) ≤ 65557) ∧
  (5 + ceil16 (65536 + 7) = 65557) ∧
  (∀ n, 5 + ceil16 (n + 7) ≤ 65535 ↔ n ≤ 65513)

/-! ## Whole-machine rules -/

/-- 60_exceptions R263: a command that ends in EncodingError writes the status and nothing else; the status of a success
carries no sub-code. -/
def Obligations.EncodingErrorIsPrecise : Prop :=
  ∀ s t : State, completeCommand s = .next t →
    (t.ecode = .encodingError ∧ t.esub ≠ .noError ∧
      t = { s with cuBusy := false, done := true, ecode := .encodingError, esub := t.esub }) ∨
    (t.ecode = .noError ∧ t.esub = .noError ∧ t.cuBusy = false ∧ t.done = true)

/-- 30_encoding R81, the outputs column: commands without DST output leave DST as it was, and no command writes anything but
its outputs and the status. -/
def Obligations.CommandsWriteOnlyTheirOutputs : Prop :=
  ∀ (s t : State) (i : Instr), exec i s = .next t →
    (i ∈ [.hdrPack, .hdrUnpack, .chash] →
      t = { s with result := t.result, cuBusy := false, done := true, ecode := t.ecode, esub := t.esub } ∧
        ∀ k, Memory.byteAt t.dst k = Memory.byteAt s.dst k) ∧
    (i ∈ [.csumClr, .csumAcc, .csumVerify] →
      t = { s with
        csumA := t.csumA, csumB := t.csumB, result := t.result, cuBusy := false, done := true, ecode := t.ecode,
        esub := t.esub } ∧
        ∀ k, Memory.byteAt t.dst k = Memory.byteAt s.dst k) ∧
    (i = .csumCompute →
      t = { s with
        csumA := t.csumA, csumB := t.csumB, result := t.result, dst := t.dst, dstLen := t.dstLen, cuBusy := false,
        done := true, ecode := t.ecode, esub := t.esub }) ∧
    (i ∈ [.frameEncode, .pktParse, .encMac] →
      t = { s with
        result := t.result, dst := t.dst, dstLen := t.dstLen, cuBusy := false, done := true, ecode := t.ecode,
        esub := t.esub }) ∧
    (i ∈ [.gtxtBuild, .gtxtPacket] →
      t = { s with
        dst := t.dst, dstLen := t.dstLen, cuBusy := false, done := true, ecode := t.ecode, esub := t.esub }) ∧
    (i ∈ [.csumCompute, .frameEncode, .pktParse, .encMac, .gtxtBuild, .gtxtPacket] →
      ∀ k, (t.ecode = .noError → t.dstLen.toNat ≤ k) → Memory.byteAt t.dst k = Memory.byteAt s.dst k)

/-- 10_state R20, 60_exceptions R264, R267: the CU and the RXD share no state: no command changes the decoder, and no RX
operation changes anything else, nor depends on anything but the decoder and DSKIP. -/
def Obligations.CommandUnitAndDecoderAreIsolated : Prop :=
  (∀ (s t : State) (i : Instr), IsCommand i → exec i s = .next t → t.rx = s.rx) ∧
  (∀ (s : State) (i : Instr), ¬ IsCommand i → ∃ r, exec i s = .next { s with rx := r }) ∧
  (∀ (s s' t t' : State) (i : Instr), ¬ IsCommand i → s.rx = s'.rx → s.dskip = s'.dskip →
    exec i s = .next t → exec i s' = .next t' → t.rx = t'.rx)

/-- 43_channel_crypto R187, 30_encoding R81: what `ENC_MAC` writes is a function of the secret's bytes and the plaintext alone. -/
def Obligations.EncMacDependsOnlyOnSecretAndPlaintext : Prop :=
  ∀ s s' t t' : State, s.SrcReady → s'.SrcReady → s.srcData = s'.srcData → s.secretBytes = s'.secretBytes →
    exec .encMac s = .next t → exec .encMac s' = .next t' → t.ecode = .noError → t'.ecode = .noError →
    t.result = t'.result ∧ t.dstLen = t'.dstLen ∧
      ∀ k, k < t.dstLen.toNat → Memory.byteAt t.dst k = Memory.byteAt t'.dst k

/-- 00_scope R7, 20_memory R63: no step changes the parameters of the instance (the model's own field, log 1). -/
def Obligations.NoStepChangesParameters : Prop :=
  ∀ s t : State, step s = .next t → t.cfg = s.cfg

/-- 40_checksum R106: the accumulators stay in 0..254 over every step, and no byte of a checksum is `FF`. -/
def Obligations.AccumulatorsStayBelow255 : Prop :=
  (∀ s t : State, s.csumA.toNat ≤ 254 → s.csumB.toNat ≤ 254 → s.rx.ra.toNat ≤ 254 → s.rx.rb.toNat ≤ 254 →
    step s = .next t →
    t.csumA.toNat ≤ 254 ∧ t.csumB.toNat ≤ 254 ∧ t.rx.ra.toNat ≤ 254 ∧ t.rx.rb.toNat ≤ 254) ∧
  (∀ (d : List Byte) (x : Byte), x ∈ checksum d → x ≠ 0xFF) ∧
  (∀ (s : State) (x : Byte) (ignored : BitVec 24), s.rx.ra.toNat ≤ 254 → s.rx.rb.toNat ≤ 254 →
    s.rx.state = .csum → s.rx.rcnt = 1 → s.rx.c0 = 0xFF ∨ x = 0xFF →
    ∃ t, exec (.rxByte x ignored) s = .next t ∧ t.rx.valid = false)

/-- 10_state R25, R31, R35, R42, R43; 40_checksum R106; 41_frame_codec R130, R132; 60_exceptions R260, R261: the invariant of the
machine is kept by every step. -/
def Obligations.EveryStepKeepsInvariant : Prop :=
  ∀ s t : State, s.Inv → step s = .next t → t.Inv

/-- 70_reset R290: the reset state meets the invariant. -/
def Obligations.ResetMeetsInvariant : Prop :=
  State.reset.Inv
end

