-- ==== Sys2Proof/Laws/State.lean ====
section
/-! SUPPORT. One lemma per field per update of State: what each named update leaves in each field. -/

namespace Sys2Proof.Machine

@[simp] theorem State.latch_cfg (s : State) (w : Word) : (s.latch w).cfg = s.cfg := rfl
@[simp] theorem State.latch_inputs (s : State) (w : Word) : (s.latch w).inputs = s.inputs := rfl
@[simp] theorem State.latch_lastRead (s : State) (w : Word) : (s.latch w).lastRead = s.lastRead := rfl
@[simp] theorem State.latch_draws (s : State) (w : Word) : (s.latch w).draws = s.draws := rfl
@[simp] theorem State.latch_cuBusy (s : State) (w : Word) : (s.latch w).cuBusy = true := rfl
@[simp] theorem State.latch_cuCmd (s : State) (w : Word) : (s.latch w).cuCmd = w := rfl
@[simp] theorem State.latch_done (s : State) (w : Word) : (s.latch w).done = false := rfl
@[simp] theorem State.latch_ecode (s : State) (w : Word) : (s.latch w).ecode = .noError := rfl
@[simp] theorem State.latch_esub (s : State) (w : Word) : (s.latch w).esub = .noError := rfl
@[simp] theorem State.latch_dskip (s : State) (w : Word) : (s.latch w).dskip = s.dskip := rfl
@[simp] theorem State.latch_srcLen (s : State) (w : Word) : (s.latch w).srcLen = s.srcLen := rfl
@[simp] theorem State.latch_arg0 (s : State) (w : Word) : (s.latch w).arg0 = s.arg0 := rfl
@[simp] theorem State.latch_arg1 (s : State) (w : Word) : (s.latch w).arg1 = s.arg1 := rfl
@[simp] theorem State.latch_result (s : State) (w : Word) : (s.latch w).result = s.result := rfl
@[simp] theorem State.latch_dstLen (s : State) (w : Word) : (s.latch w).dstLen = s.dstLen := rfl
@[simp] theorem State.latch_csumA (s : State) (w : Word) : (s.latch w).csumA = s.csumA := rfl
@[simp] theorem State.latch_csumB (s : State) (w : Word) : (s.latch w).csumB = s.csumB := rfl
@[simp] theorem State.latch_secretLen (s : State) (w : Word) : (s.latch w).secretLen = s.secretLen := rfl
@[simp] theorem State.latch_secret (s : State) (w : Word) : (s.latch w).secret = s.secret := rfl
@[simp] theorem State.latch_src (s : State) (w : Word) : (s.latch w).src = s.src := rfl
@[simp] theorem State.latch_dst (s : State) (w : Word) : (s.latch w).dst = s.dst := rfl
@[simp] theorem State.latch_rx (s : State) (w : Word) : (s.latch w).rx = s.rx := rfl

@[simp] theorem State.finish_cfg (s : State) : s.finish.cfg = s.cfg := rfl
@[simp] theorem State.finish_inputs (s : State) : s.finish.inputs = s.inputs := rfl
@[simp] theorem State.finish_lastRead (s : State) : s.finish.lastRead = s.lastRead := rfl
@[simp] theorem State.finish_draws (s : State) : s.finish.draws = s.draws := rfl
@[simp] theorem State.finish_cuBusy (s : State) : s.finish.cuBusy = false := rfl
@[simp] theorem State.finish_cuCmd (s : State) : s.finish.cuCmd = s.cuCmd := rfl
@[simp] theorem State.finish_done (s : State) : s.finish.done = true := rfl
@[simp] theorem State.finish_ecode (s : State) : s.finish.ecode = .noError := rfl
@[simp] theorem State.finish_esub (s : State) : s.finish.esub = .noError := rfl
@[simp] theorem State.finish_dskip (s : State) : s.finish.dskip = s.dskip := rfl
@[simp] theorem State.finish_srcLen (s : State) : s.finish.srcLen = s.srcLen := rfl
@[simp] theorem State.finish_arg0 (s : State) : s.finish.arg0 = s.arg0 := rfl
@[simp] theorem State.finish_arg1 (s : State) : s.finish.arg1 = s.arg1 := rfl
@[simp] theorem State.finish_result (s : State) : s.finish.result = s.result := rfl
@[simp] theorem State.finish_dstLen (s : State) : s.finish.dstLen = s.dstLen := rfl
@[simp] theorem State.finish_csumA (s : State) : s.finish.csumA = s.csumA := rfl
@[simp] theorem State.finish_csumB (s : State) : s.finish.csumB = s.csumB := rfl
@[simp] theorem State.finish_secretLen (s : State) : s.finish.secretLen = s.secretLen := rfl
@[simp] theorem State.finish_secret (s : State) : s.finish.secret = s.secret := rfl
@[simp] theorem State.finish_src (s : State) : s.finish.src = s.src := rfl
@[simp] theorem State.finish_dst (s : State) : s.finish.dst = s.dst := rfl
@[simp] theorem State.finish_rx (s : State) : s.finish.rx = s.rx := rfl

@[simp] theorem State.raiseError_cfg (s : State) (sub : ESub) : (s.raiseError sub).cfg = s.cfg := rfl
@[simp] theorem State.raiseError_inputs (s : State) (sub : ESub) : (s.raiseError sub).inputs = s.inputs := rfl
@[simp] theorem State.raiseError_lastRead (s : State) (sub : ESub) : (s.raiseError sub).lastRead = s.lastRead := rfl
@[simp] theorem State.raiseError_draws (s : State) (sub : ESub) : (s.raiseError sub).draws = s.draws := rfl
@[simp] theorem State.raiseError_cuBusy (s : State) (sub : ESub) : (s.raiseError sub).cuBusy = false := rfl
@[simp] theorem State.raiseError_cuCmd (s : State) (sub : ESub) : (s.raiseError sub).cuCmd = s.cuCmd := rfl
@[simp] theorem State.raiseError_done (s : State) (sub : ESub) : (s.raiseError sub).done = true := rfl
@[simp] theorem State.raiseError_ecode (s : State) (sub : ESub) : (s.raiseError sub).ecode = .encodingError := rfl
@[simp] theorem State.raiseError_esub (s : State) (sub : ESub) : (s.raiseError sub).esub = sub := rfl
@[simp] theorem State.raiseError_dskip (s : State) (sub : ESub) : (s.raiseError sub).dskip = s.dskip := rfl
@[simp] theorem State.raiseError_srcLen (s : State) (sub : ESub) : (s.raiseError sub).srcLen = s.srcLen := rfl
@[simp] theorem State.raiseError_arg0 (s : State) (sub : ESub) : (s.raiseError sub).arg0 = s.arg0 := rfl
@[simp] theorem State.raiseError_arg1 (s : State) (sub : ESub) : (s.raiseError sub).arg1 = s.arg1 := rfl
@[simp] theorem State.raiseError_result (s : State) (sub : ESub) : (s.raiseError sub).result = s.result := rfl
@[simp] theorem State.raiseError_dstLen (s : State) (sub : ESub) : (s.raiseError sub).dstLen = s.dstLen := rfl
@[simp] theorem State.raiseError_csumA (s : State) (sub : ESub) : (s.raiseError sub).csumA = s.csumA := rfl
@[simp] theorem State.raiseError_csumB (s : State) (sub : ESub) : (s.raiseError sub).csumB = s.csumB := rfl
@[simp] theorem State.raiseError_secretLen (s : State) (sub : ESub) : (s.raiseError sub).secretLen = s.secretLen := rfl
@[simp] theorem State.raiseError_secret (s : State) (sub : ESub) : (s.raiseError sub).secret = s.secret := rfl
@[simp] theorem State.raiseError_src (s : State) (sub : ESub) : (s.raiseError sub).src = s.src := rfl
@[simp] theorem State.raiseError_dst (s : State) (sub : ESub) : (s.raiseError sub).dst = s.dst := rfl
@[simp] theorem State.raiseError_rx (s : State) (sub : ESub) : (s.raiseError sub).rx = s.rx := rfl

@[simp] theorem State.setCsum_cfg (s : State) (ab : Byte × Byte) : (s.setCsum ab).cfg = s.cfg := rfl
@[simp] theorem State.setCsum_inputs (s : State) (ab : Byte × Byte) : (s.setCsum ab).inputs = s.inputs := rfl
@[simp] theorem State.setCsum_lastRead (s : State) (ab : Byte × Byte) : (s.setCsum ab).lastRead = s.lastRead := rfl
@[simp] theorem State.setCsum_draws (s : State) (ab : Byte × Byte) : (s.setCsum ab).draws = s.draws := rfl
@[simp] theorem State.setCsum_cuBusy (s : State) (ab : Byte × Byte) : (s.setCsum ab).cuBusy = s.cuBusy := rfl
@[simp] theorem State.setCsum_cuCmd (s : State) (ab : Byte × Byte) : (s.setCsum ab).cuCmd = s.cuCmd := rfl
@[simp] theorem State.setCsum_done (s : State) (ab : Byte × Byte) : (s.setCsum ab).done = s.done := rfl
@[simp] theorem State.setCsum_ecode (s : State) (ab : Byte × Byte) : (s.setCsum ab).ecode = s.ecode := rfl
@[simp] theorem State.setCsum_esub (s : State) (ab : Byte × Byte) : (s.setCsum ab).esub = s.esub := rfl
@[simp] theorem State.setCsum_dskip (s : State) (ab : Byte × Byte) : (s.setCsum ab).dskip = s.dskip := rfl
@[simp] theorem State.setCsum_srcLen (s : State) (ab : Byte × Byte) : (s.setCsum ab).srcLen = s.srcLen := rfl
@[simp] theorem State.setCsum_arg0 (s : State) (ab : Byte × Byte) : (s.setCsum ab).arg0 = s.arg0 := rfl
@[simp] theorem State.setCsum_arg1 (s : State) (ab : Byte × Byte) : (s.setCsum ab).arg1 = s.arg1 := rfl
@[simp] theorem State.setCsum_result (s : State) (ab : Byte × Byte) : (s.setCsum ab).result = s.result := rfl
@[simp] theorem State.setCsum_dstLen (s : State) (ab : Byte × Byte) : (s.setCsum ab).dstLen = s.dstLen := rfl
@[simp] theorem State.setCsum_csumA (s : State) (ab : Byte × Byte) : (s.setCsum ab).csumA = ab.1 := rfl
@[simp] theorem State.setCsum_csumB (s : State) (ab : Byte × Byte) : (s.setCsum ab).csumB = ab.2 := rfl
@[simp] theorem State.setCsum_secretLen (s : State) (ab : Byte × Byte) : (s.setCsum ab).secretLen = s.secretLen := rfl
@[simp] theorem State.setCsum_secret (s : State) (ab : Byte × Byte) : (s.setCsum ab).secret = s.secret := rfl
@[simp] theorem State.setCsum_src (s : State) (ab : Byte × Byte) : (s.setCsum ab).src = s.src := rfl
@[simp] theorem State.setCsum_dst (s : State) (ab : Byte × Byte) : (s.setCsum ab).dst = s.dst := rfl
@[simp] theorem State.setCsum_rx (s : State) (ab : Byte × Byte) : (s.setCsum ab).rx = s.rx := rfl

@[simp] theorem State.setResult_cfg (s : State) (v : Word) : (s.setResult v).cfg = s.cfg := rfl
@[simp] theorem State.setResult_inputs (s : State) (v : Word) : (s.setResult v).inputs = s.inputs := rfl
@[simp] theorem State.setResult_lastRead (s : State) (v : Word) : (s.setResult v).lastRead = s.lastRead := rfl
@[simp] theorem State.setResult_draws (s : State) (v : Word) : (s.setResult v).draws = s.draws := rfl
@[simp] theorem State.setResult_cuBusy (s : State) (v : Word) : (s.setResult v).cuBusy = s.cuBusy := rfl
@[simp] theorem State.setResult_cuCmd (s : State) (v : Word) : (s.setResult v).cuCmd = s.cuCmd := rfl
@[simp] theorem State.setResult_done (s : State) (v : Word) : (s.setResult v).done = s.done := rfl
@[simp] theorem State.setResult_ecode (s : State) (v : Word) : (s.setResult v).ecode = s.ecode := rfl
@[simp] theorem State.setResult_esub (s : State) (v : Word) : (s.setResult v).esub = s.esub := rfl
@[simp] theorem State.setResult_dskip (s : State) (v : Word) : (s.setResult v).dskip = s.dskip := rfl
@[simp] theorem State.setResult_srcLen (s : State) (v : Word) : (s.setResult v).srcLen = s.srcLen := rfl
@[simp] theorem State.setResult_arg0 (s : State) (v : Word) : (s.setResult v).arg0 = s.arg0 := rfl
@[simp] theorem State.setResult_arg1 (s : State) (v : Word) : (s.setResult v).arg1 = s.arg1 := rfl
@[simp] theorem State.setResult_result (s : State) (v : Word) : (s.setResult v).result = v := rfl
@[simp] theorem State.setResult_dstLen (s : State) (v : Word) : (s.setResult v).dstLen = s.dstLen := rfl
@[simp] theorem State.setResult_csumA (s : State) (v : Word) : (s.setResult v).csumA = s.csumA := rfl
@[simp] theorem State.setResult_csumB (s : State) (v : Word) : (s.setResult v).csumB = s.csumB := rfl
@[simp] theorem State.setResult_secretLen (s : State) (v : Word) : (s.setResult v).secretLen = s.secretLen := rfl
@[simp] theorem State.setResult_secret (s : State) (v : Word) : (s.setResult v).secret = s.secret := rfl
@[simp] theorem State.setResult_src (s : State) (v : Word) : (s.setResult v).src = s.src := rfl
@[simp] theorem State.setResult_dst (s : State) (v : Word) : (s.setResult v).dst = s.dst := rfl
@[simp] theorem State.setResult_rx (s : State) (v : Word) : (s.setResult v).rx = s.rx := rfl

@[simp] theorem State.putDst_cfg (s : State) (bs : List Byte) : (s.putDst bs).cfg = s.cfg := rfl
@[simp] theorem State.putDst_inputs (s : State) (bs : List Byte) : (s.putDst bs).inputs = s.inputs := rfl
@[simp] theorem State.putDst_lastRead (s : State) (bs : List Byte) : (s.putDst bs).lastRead = s.lastRead := rfl
@[simp] theorem State.putDst_draws (s : State) (bs : List Byte) : (s.putDst bs).draws = s.draws := rfl
@[simp] theorem State.putDst_cuBusy (s : State) (bs : List Byte) : (s.putDst bs).cuBusy = s.cuBusy := rfl
@[simp] theorem State.putDst_cuCmd (s : State) (bs : List Byte) : (s.putDst bs).cuCmd = s.cuCmd := rfl
@[simp] theorem State.putDst_done (s : State) (bs : List Byte) : (s.putDst bs).done = s.done := rfl
@[simp] theorem State.putDst_ecode (s : State) (bs : List Byte) : (s.putDst bs).ecode = s.ecode := rfl
@[simp] theorem State.putDst_esub (s : State) (bs : List Byte) : (s.putDst bs).esub = s.esub := rfl
@[simp] theorem State.putDst_dskip (s : State) (bs : List Byte) : (s.putDst bs).dskip = s.dskip := rfl
@[simp] theorem State.putDst_srcLen (s : State) (bs : List Byte) : (s.putDst bs).srcLen = s.srcLen := rfl
@[simp] theorem State.putDst_arg0 (s : State) (bs : List Byte) : (s.putDst bs).arg0 = s.arg0 := rfl
@[simp] theorem State.putDst_arg1 (s : State) (bs : List Byte) : (s.putDst bs).arg1 = s.arg1 := rfl
@[simp] theorem State.putDst_result (s : State) (bs : List Byte) : (s.putDst bs).result = s.result := rfl
@[simp] theorem State.putDst_dstLen (s : State) (bs : List Byte) : (s.putDst bs).dstLen = BitVec.ofNat 18 bs.length := rfl
@[simp] theorem State.putDst_csumA (s : State) (bs : List Byte) : (s.putDst bs).csumA = s.csumA := rfl
@[simp] theorem State.putDst_csumB (s : State) (bs : List Byte) : (s.putDst bs).csumB = s.csumB := rfl
@[simp] theorem State.putDst_secretLen (s : State) (bs : List Byte) : (s.putDst bs).secretLen = s.secretLen := rfl
@[simp] theorem State.putDst_secret (s : State) (bs : List Byte) : (s.putDst bs).secret = s.secret := rfl
@[simp] theorem State.putDst_src (s : State) (bs : List Byte) : (s.putDst bs).src = s.src := rfl
@[simp] theorem State.putDst_dst (s : State) (bs : List Byte) : (s.putDst bs).dst = Memory.putBytes s.dst 0 bs := rfl
@[simp] theorem State.putDst_rx (s : State) (bs : List Byte) : (s.putDst bs).rx = s.rx := rfl

@[simp] theorem State.setRx_cfg (s : State) (r : Rx) : (s.setRx r).cfg = s.cfg := rfl
@[simp] theorem State.setRx_inputs (s : State) (r : Rx) : (s.setRx r).inputs = s.inputs := rfl
@[simp] theorem State.setRx_lastRead (s : State) (r : Rx) : (s.setRx r).lastRead = s.lastRead := rfl
@[simp] theorem State.setRx_draws (s : State) (r : Rx) : (s.setRx r).draws = s.draws := rfl
@[simp] theorem State.setRx_cuBusy (s : State) (r : Rx) : (s.setRx r).cuBusy = s.cuBusy := rfl
@[simp] theorem State.setRx_cuCmd (s : State) (r : Rx) : (s.setRx r).cuCmd = s.cuCmd := rfl
@[simp] theorem State.setRx_done (s : State) (r : Rx) : (s.setRx r).done = s.done := rfl
@[simp] theorem State.setRx_ecode (s : State) (r : Rx) : (s.setRx r).ecode = s.ecode := rfl
@[simp] theorem State.setRx_esub (s : State) (r : Rx) : (s.setRx r).esub = s.esub := rfl
@[simp] theorem State.setRx_dskip (s : State) (r : Rx) : (s.setRx r).dskip = s.dskip := rfl
@[simp] theorem State.setRx_srcLen (s : State) (r : Rx) : (s.setRx r).srcLen = s.srcLen := rfl
@[simp] theorem State.setRx_arg0 (s : State) (r : Rx) : (s.setRx r).arg0 = s.arg0 := rfl
@[simp] theorem State.setRx_arg1 (s : State) (r : Rx) : (s.setRx r).arg1 = s.arg1 := rfl
@[simp] theorem State.setRx_result (s : State) (r : Rx) : (s.setRx r).result = s.result := rfl
@[simp] theorem State.setRx_dstLen (s : State) (r : Rx) : (s.setRx r).dstLen = s.dstLen := rfl
@[simp] theorem State.setRx_csumA (s : State) (r : Rx) : (s.setRx r).csumA = s.csumA := rfl
@[simp] theorem State.setRx_csumB (s : State) (r : Rx) : (s.setRx r).csumB = s.csumB := rfl
@[simp] theorem State.setRx_secretLen (s : State) (r : Rx) : (s.setRx r).secretLen = s.secretLen := rfl
@[simp] theorem State.setRx_secret (s : State) (r : Rx) : (s.setRx r).secret = s.secret := rfl
@[simp] theorem State.setRx_src (s : State) (r : Rx) : (s.setRx r).src = s.src := rfl
@[simp] theorem State.setRx_dst (s : State) (r : Rx) : (s.setRx r).dst = s.dst := rfl
@[simp] theorem State.setRx_rx (s : State) (r : Rx) : (s.setRx r).rx = r := rfl

@[simp] theorem State.resetBlock_cfg (s : State) : s.resetBlock.cfg = s.cfg := rfl
@[simp] theorem State.resetBlock_inputs (s : State) : s.resetBlock.inputs = s.inputs := rfl
@[simp] theorem State.resetBlock_lastRead (s : State) : s.resetBlock.lastRead = s.lastRead := rfl
@[simp] theorem State.resetBlock_draws (s : State) : s.resetBlock.draws = s.draws := rfl
@[simp] theorem State.resetBlock_cuBusy (s : State) : s.resetBlock.cuBusy = false := rfl
@[simp] theorem State.resetBlock_cuCmd (s : State) : s.resetBlock.cuCmd = 0 := rfl
@[simp] theorem State.resetBlock_done (s : State) : s.resetBlock.done = false := rfl
@[simp] theorem State.resetBlock_ecode (s : State) : s.resetBlock.ecode = .noError := rfl
@[simp] theorem State.resetBlock_esub (s : State) : s.resetBlock.esub = .noError := rfl
@[simp] theorem State.resetBlock_dskip (s : State) : s.resetBlock.dskip = false := rfl
@[simp] theorem State.resetBlock_srcLen (s : State) : s.resetBlock.srcLen = 0 := rfl
@[simp] theorem State.resetBlock_arg0 (s : State) : s.resetBlock.arg0 = 0 := rfl
@[simp] theorem State.resetBlock_arg1 (s : State) : s.resetBlock.arg1 = 0 := rfl
@[simp] theorem State.resetBlock_result (s : State) : s.resetBlock.result = 0 := rfl
@[simp] theorem State.resetBlock_dstLen (s : State) : s.resetBlock.dstLen = 0 := rfl
@[simp] theorem State.resetBlock_csumA (s : State) : s.resetBlock.csumA = 0 := rfl
@[simp] theorem State.resetBlock_csumB (s : State) : s.resetBlock.csumB = 0 := rfl
@[simp] theorem State.resetBlock_secretLen (s : State) : s.resetBlock.secretLen = 16 := rfl
@[simp] theorem State.resetBlock_secret (s : State) : s.resetBlock.secret = resetSecret := rfl
@[simp] theorem State.resetBlock_src (s : State) : s.resetBlock.src = [] := rfl
@[simp] theorem State.resetBlock_dst (s : State) : s.resetBlock.dst = [] := rfl
@[simp] theorem State.resetBlock_rx (s : State) : s.resetBlock.rx = Rx.reset := rfl

@[simp] theorem Rx.clearBuf_state (r : Rx) : r.clearBuf.state = r.state := rfl
@[simp] theorem Rx.clearBuf_valid (r : Rx) : r.clearBuf.valid = r.valid := rfl
@[simp] theorem Rx.clearBuf_ecode (r : Rx) : r.clearBuf.ecode = r.ecode := rfl
@[simp] theorem Rx.clearBuf_ovf (r : Rx) : r.clearBuf.ovf = r.ovf := rfl
@[simp] theorem Rx.clearBuf_eosf (r : Rx) : r.clearBuf.eosf = r.eosf := rfl
@[simp] theorem Rx.clearBuf_len (r : Rx) : r.clearBuf.len = r.len := rfl
@[simp] theorem Rx.clearBuf_csum (r : Rx) : r.clearBuf.csum = r.csum := rfl
@[simp] theorem Rx.clearBuf_rcnt (r : Rx) : r.clearBuf.rcnt = r.rcnt := rfl
@[simp] theorem Rx.clearBuf_m0 (r : Rx) : r.clearBuf.m0 = r.m0 := rfl
@[simp] theorem Rx.clearBuf_lhi (r : Rx) : r.clearBuf.lhi = r.lhi := rfl
@[simp] theorem Rx.clearBuf_ra (r : Rx) : r.clearBuf.ra = r.ra := rfl
@[simp] theorem Rx.clearBuf_rb (r : Rx) : r.clearBuf.rb = r.rb := rfl
@[simp] theorem Rx.clearBuf_c0 (r : Rx) : r.clearBuf.c0 = r.c0 := rfl
@[simp] theorem Rx.clearBuf_buf (r : Rx) : r.clearBuf.buf = [] := rfl

end Sys2Proof.Machine
end

