-- ==== Sys2Proof/Laws/Memory.lean ====
section
/-! SUPPORT. The laws of the buffers: a read after a write, canonical form, and what a slice answers. -/

namespace Sys2Proof.Machine

@[simp] theorem Memory.byteAt_nil (i : Nat) : Memory.byteAt [] i = none := rfl

theorem Memory.byteAt_cons (c : Host.Cell) (m : Memory) (i : Nat) :
    Memory.byteAt (c :: m) i = if i = c.1 then some c.2 else Memory.byteAt m i := rfl

/-- A byte reads as it was written, and every other index reads as before. -/
theorem Memory.byteAt_put (m : Memory) (i : Nat) (b : Byte) (j : Nat) :
    Memory.byteAt (Memory.put m i b) j = if j = i then some b else Memory.byteAt m j := by
  induction m with
  | nil => rfl
  | cons c rest ih =>
    obtain ⟨k, x⟩ := c
    rw [Memory.put]
    split
    · rfl
    · split
      · rename_i hik
        subst hik
        simp only [Memory.byteAt_cons]
        split <;> rfl
      · rw [Memory.byteAt_cons, ih, Memory.byteAt_cons]
        split_ifs <;> first | rfl | omega

/-- Writing keeps the indexes that were listed and adds the written one. -/
theorem Memory.mem_put {m : Memory} {i : Nat} {b : Byte} {c : Host.Cell} (h : c ∈ Memory.put m i b) :
    c = (i, b) ∨ c ∈ m := by
  induction m with
  | nil => exact .inl (List.mem_singleton.mp h)
  | cons d rest ih =>
    rw [Memory.put] at h
    split at h
    · exact List.mem_cons.mp h
    · split at h
      · rcases List.mem_cons.mp h with h | h
        · exact .inl h
        · exact .inr (List.mem_cons_of_mem _ h)
      · rcases List.mem_cons.mp h with h | h
        · exact .inr (h ▸ List.mem_cons_self)
        · exact (ih h).imp_right (List.mem_cons_of_mem _)

/-- Writing a byte keeps the canonical form. -/
theorem Memory.wf_put {m : Memory} (h : Memory.wf m) (i : Nat) (b : Byte) : Memory.wf (Memory.put m i b) := by
  induction m with
  | nil => exact List.pairwise_singleton _ _
  | cons d rest ih =>
    obtain ⟨hd, hrest⟩ := List.pairwise_cons.mp h
    rw [Memory.put]
    split
    · rename_i hlt
      refine List.pairwise_cons.mpr ⟨fun c hc => ?_, h⟩
      rcases List.mem_cons.mp hc with rfl | hc
      · exact hlt
      · exact Nat.lt_trans hlt (hd c hc)
    · split
      · rename_i heq
        subst heq
        exact List.pairwise_cons.mpr ⟨hd, hrest⟩
      · rename_i hlt hne
        refine List.pairwise_cons.mpr ⟨fun c hc => ?_, ih hrest⟩
        rcases Memory.mem_put hc with rfl | hc
        · dsimp only
          omega
        · exact hd c hc

/-- What a run of bytes reads as after it was written, and everything else. -/
theorem Memory.byteAt_putBytes (m : Memory) (i : Nat) (bs : List Byte) (j : Nat) :
    Memory.byteAt (Memory.putBytes m i bs) j = if i ≤ j ∧ j < i + bs.length then bs[j - i]? else Memory.byteAt m j := by
  induction bs generalizing m i with
  | nil =>
    rw [Memory.putBytes, if_neg]
    simp
  | cons b rest ih =>
    rw [Memory.putBytes, ih, Memory.byteAt_put]
    rcases Nat.lt_trichotomy j i with h | h | h
    · rw [if_neg (by omega), if_neg (by omega), if_neg (by omega)]
    · subst h
      rw [if_neg (by omega), if_pos rfl, if_pos (by simp)]
      simp
    · rw [if_neg (show ¬ j = i by omega)]
      have hj : j - i = (j - (i + 1)) + 1 := by omega
      rw [hj, List.getElem?_cons_succ]
      simp only [List.length_cons]
      split_ifs <;> first | rfl | omega

/-- Writing bytes lists no index outside the written run and those listed before. -/
theorem Memory.mem_putBytes {m : Memory} {i : Nat} {bs : List Byte} {c : Host.Cell}
    (h : c ∈ Memory.putBytes m i bs) : (i ≤ c.1 ∧ c.1 < i + bs.length) ∨ c ∈ m := by
  induction bs generalizing m i with
  | nil => exact .inr h
  | cons b rest ih =>
    rcases ih h with h | h
    · left
      simp only [List.length_cons]
      omega
    · rcases Memory.mem_put h with rfl | h
      · left
        simp
      · exact .inr h

/-- Writing bytes keeps the canonical form. -/
theorem Memory.wf_putBytes {m : Memory} (h : Memory.wf m) (i : Nat) (bs : List Byte) :
    Memory.wf (Memory.putBytes m i bs) := by
  induction bs generalizing m i with
  | nil => exact h
  | cons b rest ih => exact ih (Memory.wf_put h i b) (i + 1)

/-- Writing bytes inside the size keeps a buffer inside it. -/
theorem Memory.inside_putBytes {m : Memory} {size i : Nat} {bs : List Byte} (h : Memory.Inside m size)
    (hi : bs.length = 0 ∨ i + bs.length ≤ size) : Memory.Inside (Memory.putBytes m i bs) size := by
  refine ⟨Memory.wf_putBytes h.1 i bs, fun c hc => ?_⟩
  rcases Memory.mem_putBytes hc with hc | hc
  · omega
  · exact h.2 c hc

/-- A slice answers its bytes exactly when every one of them is defined. -/
theorem Memory.slice_eq_ok_iff (m : Memory) (i n : Nat) (bs : List Byte) :
    Memory.slice m i n = .ok bs ↔ bs.length = n ∧ ∀ k, k < n → Memory.byteAt m (i + k) = bs[k]? := by
  induction n generalizing i bs with
  | zero =>
    constructor
    · intro h
      cases h
      simp
    · rintro ⟨h, -⟩
      rw [List.length_eq_zero_iff.mp h]
      rfl
  | succ n ih =>
    rw [Memory.slice]
    constructor
    · intro h
      split at h
      · cases h
      · rename_i b hb
        split at h
        · cases h
        · rename_i rest hrest
          cases h
          obtain ⟨hlen, hbytes⟩ := (ih (i + 1) rest).mp hrest
          refine ⟨by simp [hlen], fun k hk => ?_⟩
          cases k with
          | zero => simpa using hb
          | succ k =>
            rw [List.getElem?_cons_succ, ← hbytes k (by omega)]
            congr 1
            omega
    · rintro ⟨hlen, hbytes⟩
      cases bs with
      | nil => simp at hlen
      | cons b rest =>
        have h0 := hbytes 0 (by omega)
        simp only [Nat.add_zero, List.getElem?_cons_zero] at h0
        have hrest : Memory.slice m (i + 1) n = .ok rest := by
          refine (ih (i + 1) rest).mpr ⟨by simpa using hlen, fun k hk => ?_⟩
          have := hbytes (k + 1) (by omega)
          rw [List.getElem?_cons_succ] at this
          rw [← this]
          congr 1
          omega
        rw [h0, hrest]

/-- A slice fails at the first of its bytes that is undefined. -/
theorem Memory.slice_eq_error_iff (m : Memory) (i n j : Nat) :
    Memory.slice m i n = .error j ↔
      i ≤ j ∧ j < i + n ∧ Memory.byteAt m j = none ∧ ∀ k, i ≤ k → k < j → (Memory.byteAt m k).isSome = true := by
  induction n generalizing i with
  | zero =>
    constructor
    · intro h
      cases h
    · rintro ⟨h1, h2, -⟩
      omega
  | succ n ih =>
    rw [Memory.slice]
    constructor
    · intro h
      split at h
      · rename_i hb
        cases h
        exact ⟨le_rfl, by omega, hb, fun k h1 h2 => by omega⟩
      · rename_i b hb
        split at h
        · rename_i hrest
          cases h
          obtain ⟨h1, h2, h3, h4⟩ := (ih (i + 1)).mp hrest
          refine ⟨by omega, by omega, h3, fun k hk hkj => ?_⟩
          rcases Nat.eq_or_lt_of_le hk with rfl | hk
          · rw [hb]
            rfl
          · exact h4 k hk hkj
        · cases h
    · rintro ⟨h1, h2, h3, h4⟩
      rcases Nat.eq_or_lt_of_le h1 with rfl | h1
      · rw [h3]
      · obtain ⟨b, hb⟩ := Option.isSome_iff_exists.mp (h4 i le_rfl h1)
        rw [hb, (ih (i + 1)).mpr ⟨h1, by omega, h3, fun k hk hkj => h4 k (by omega) hkj⟩]

end Sys2Proof.Machine
end

