-- ==== Sys2Proof/Laws/Operands.lean ====
section
/-! SUPPORT. What the shared checks and operand reads do: where they pass, where they stop, and what an answer `next`
says about them. -/

namespace Sys2Proof.Machine

@[simp] theorem State.length_srcBytes (s : State) (i j : Nat) : (s.srcBytes i j).length = j - i := by
  simp [State.srcBytes]

theorem State.getElem?_srcBytes {s : State} {i j k : Nat} (h : s.SrcDefined i j) (hk : k < j - i) :
    (s.srcBytes i j)[k]? = Memory.byteAt s.src (i + k) := by
  obtain ⟨b, hb⟩ := Option.isSome_iff_exists.mp (h (i + k) (by omega) (by omega))
  rw [hb]
  simp [State.srcBytes, hk, hb]

/-- Defined bytes are consumed as they stand. -/
theorem slice_of_defined {s : State} {i n : Nat} (h : s.SrcDefined i (i + n)) :
    Memory.slice s.src i n = .ok (s.srcBytes i (i + n)) :=
  (Memory.slice_eq_ok_iff ..).mpr ⟨by simp, fun _ hk => (State.getElem?_srcBytes h (by omega)).symm⟩

theorem consumeSrc_of_defined {s : State} {i n : Nat} (h : s.SrcDefined i (i + n)) (k : List Byte → Result) :
    consumeSrc s i n k = k (s.srcBytes i (i + n)) := by
  rw [consumeSrc, slice_of_defined h]

/-- The first undefined byte is the one the fault names (10_state R42). -/
theorem consumeSrc_of_undefined {s : State} {i n j : Nat} (h : s.FirstUndefined i (i + n) j) (k : List Byte → Result) :
    consumeSrc s i n k = .fault (.uninitialisedOperand j) := by
  rw [consumeSrc, (Memory.slice_eq_error_iff ..).mpr ⟨h.1, h.2.1, h.2.2.1, h.2.2.2⟩]

/-- Everything consuming a range of SRC can do when it goes on. -/
theorem consumeSrc_next {s t : State} {i n : Nat} {k : List Byte → Result} (h : consumeSrc s i n k = .next t) :
    s.SrcDefined i (i + n) ∧ k (s.srcBytes i (i + n)) = .next t := by
  cases hs : Memory.slice s.src i n with
  | error j => simp [consumeSrc, hs] at h
  | ok bs =>
    obtain ⟨hlen, hb⟩ := (Memory.slice_eq_ok_iff ..).mp hs
    have hd : s.SrcDefined i (i + n) := fun j h1 h2 => by
      have := hb (j - i) (by omega)
      rw [show i + (j - i) = j by omega] at this
      rw [this, List.getElem?_eq_getElem (by omega)]
      rfl
    exact ⟨hd, by rwa [consumeSrc_of_defined hd] at h⟩

theorem consumeByte_of_defined {s : State} {i : Nat} {b : Byte} (h : Memory.byteAt s.src i = some b) (k : Byte → Result) :
    consumeByte s i k = k b := by
  rw [consumeByte, h]

theorem consumeByte_of_undefined {s : State} {i : Nat} (h : Memory.byteAt s.src i = none) (k : Byte → Result) :
    consumeByte s i k = .fault (.uninitialisedOperand i) := by
  rw [consumeByte, h]

theorem consumeByte_next {s t : State} {i : Nat} {k : Byte → Result} (h : consumeByte s i k = .next t) :
    ∃ b, Memory.byteAt s.src i = some b ∧ k b = .next t := by
  unfold consumeByte at h
  split at h
  · cases h
  · exact ⟨_, ‹_›, h⟩

theorem checkSrcLen_pass {s : State} (h : s.srcLen.toNat ≤ s.cfg.srcSize) (k : Result) : checkSrcLen s k = k :=
  if_neg (by omega)

theorem checkSrcLen_fail {s : State} (h : s.cfg.srcSize < s.srcLen.toNat) (k : Result) :
    checkSrcLen s k = .next (s.raiseError .srcLenRange) :=
  if_pos h

theorem checkSrcLen_next {s t : State} {k : Result} (h : checkSrcLen s k = .next t) :
    t = s.raiseError .srcLenRange ∨ (s.srcLen.toNat ≤ s.cfg.srcSize ∧ k = .next t) := by
  unfold checkSrcLen at h
  split at h
  · cases h
    exact .inl rfl
  · exact .inr ⟨by omega, h⟩

theorem checkSecretLen_pass {s : State} (h : s.SecretLegal) (k : Result) : checkSecretLen s k = k :=
  if_neg (by have := h.1; have := h.2; omega)

theorem checkSecretLen_fail {s : State} (h : ¬ s.SecretLegal) (k : Result) :
    checkSecretLen s k = .next (s.raiseError .secretLen) :=
  if_pos (by unfold State.SecretLegal at h; omega)

theorem checkSecretLen_next {s t : State} {k : Result} (h : checkSecretLen s k = .next t) :
    t = s.raiseError .secretLen ∨ (s.SecretLegal ∧ k = .next t) := by
  by_cases hs : s.SecretLegal
  · rw [checkSecretLen_pass hs] at h
    exact .inr ⟨hs, h⟩
  · rw [checkSecretLen_fail hs] at h
    cases h
    exact .inl rfl

theorem checkArg_pass (s : State) {bad : Bool} (h : bad = false) (k : Result) : checkArg s bad k = k := by
  rw [checkArg, h]
  rfl

theorem checkArg_fail (s : State) {bad : Bool} (h : bad = true) (k : Result) :
    checkArg s bad k = .next (s.raiseError .argRange) := by
  rw [checkArg, h]
  rfl

theorem checkArg_next {s t : State} {bad : Bool} {k : Result} (h : checkArg s bad k = .next t) :
    t = s.raiseError .argRange ∨ (bad = false ∧ k = .next t) := by
  cases bad with
  | true =>
    cases h
    exact .inl rfl
  | false => exact .inr ⟨rfl, h⟩

theorem checkOut_pass {s : State} {len : Nat} (h : len ≤ s.cfg.dstSize) (k : Result) : checkOut s len k = k :=
  if_neg (by omega)

theorem checkOut_fail {s : State} {len : Nat} (h : s.cfg.dstSize < len) (k : Result) :
    checkOut s len k = .next (s.raiseError .outOvf) :=
  if_pos h

theorem checkOut_next {s t : State} {len : Nat} {k : Result} (h : checkOut s len k = .next t) :
    t = s.raiseError .outOvf ∨ (len ≤ s.cfg.dstSize ∧ k = .next t) := by
  unfold checkOut at h
  split at h
  · cases h
    exact .inl rfl
  · exact .inr ⟨by omega, h⟩

/-! Everything each check and operand read can answer. -/

theorem checkSrcLen_cases (s : State) (k : Result) :
    checkSrcLen s k = .next (s.raiseError .srcLenRange) ∨ checkSrcLen s k = k :=
  (Nat.lt_or_ge s.cfg.srcSize s.srcLen.toNat).imp (checkSrcLen_fail · k) (checkSrcLen_pass · k)

theorem checkSecretLen_cases (s : State) (k : Result) :
    checkSecretLen s k = .next (s.raiseError .secretLen) ∨ checkSecretLen s k = k :=
  (Decidable.em s.SecretLegal).symm.imp (checkSecretLen_fail · k) (checkSecretLen_pass · k)

theorem checkArg_cases (s : State) (bad : Bool) (k : Result) :
    checkArg s bad k = .next (s.raiseError .argRange) ∨ (bad = false ∧ checkArg s bad k = k) := by
  cases bad with
  | true => exact .inl rfl
  | false => exact .inr ⟨rfl, rfl⟩

theorem checkOut_cases (s : State) (len : Nat) (k : Result) :
    checkOut s len k = .next (s.raiseError .outOvf) ∨ checkOut s len k = k :=
  (Nat.lt_or_ge s.cfg.dstSize len).imp (checkOut_fail · k) (checkOut_pass · k)

/-- A range of SRC has a first undefined byte or none. -/
theorem firstUndefined_or_defined (s : State) (i n : Nat) :
    (∃ j, s.FirstUndefined i (i + n) j) ∨ s.SrcDefined i (i + n) := by
  cases hs : Memory.slice s.src i n with
  | error j => exact .inl ⟨j, (Memory.slice_eq_error_iff ..).mp hs⟩
  | ok bs => exact .inr (consumeSrc_next (k := fun _ => .next s) (by rw [consumeSrc, hs])).1

theorem consumeSrc_cases (s : State) (i n : Nat) (k : List Byte → Result) :
    (∃ j, s.FirstUndefined i (i + n) j ∧ consumeSrc s i n k = .fault (.uninitialisedOperand j)) ∨
      (s.SrcDefined i (i + n) ∧ consumeSrc s i n k = k (s.srcBytes i (i + n))) :=
  (firstUndefined_or_defined s i n).imp (fun ⟨j, h⟩ => ⟨j, h, consumeSrc_of_undefined h k⟩)
    fun h => ⟨h, consumeSrc_of_defined h k⟩

theorem consumeByte_cases (s : State) (i : Nat) (k : Byte → Result) :
    (Memory.byteAt s.src i = none ∧ consumeByte s i k = .fault (.uninitialisedOperand i)) ∨
      ∃ b, Memory.byteAt s.src i = some b ∧ consumeByte s i k = k b := by
  cases h : Memory.byteAt s.src i with
  | none => exact .inl ⟨rfl, consumeByte_of_undefined h k⟩
  | some b => exact .inr ⟨b, rfl, consumeByte_of_defined h k⟩

end Sys2Proof.Machine
end

