-- ==== Sys2Proof/Laws/Bus.lean ====
section
/-! SUPPORT. The bus: which target an aligned word access reaches, and one lemma per kind of input that the step takes. -/

namespace Sys2Proof.Machine

/-- An aligned word access at `P_BASE + off` reaches what the map says of `off`. -/
theorem resolve_word {c : Config} {off : Nat} (hb : c.base % 4 = 0) (ho : off % 4 = 0) :
    resolve c .word (c.base + off) = busTarget c off := by
  rw [resolve, if_pos ⟨rfl, by omega, by omega⟩, Nat.add_sub_cancel_left]

/-- No other access reaches anything (20_memory R61). -/
theorem resolve_narrow_or_misaligned {c : Config} {width : Width} {addr : Nat} (h : width ≠ .word ∨ addr % 4 ≠ 0) :
    resolve c width addr = none :=
  if_neg fun hc => h.elim (· hc.1) (· hc.2.1)

theorem busTarget_secret {c : Config} {off : Nat} (h1 : 0x100 ≤ off) (h2 : off < 0x120) :
    busTarget c off = some (.secret (off - 0x100)) := by
  rw [busTarget, if_neg (by omega), if_pos h2]

theorem busTarget_src {c : Config} {off : Nat} (h1 : 0x10000 ≤ off) (h2 : off < 0x20000)
    (h3 : off - 0x10000 < c.srcSize) : busTarget c off = some (.src (off - 0x10000)) := by
  rw [busTarget, if_neg (by omega), if_neg (by omega), if_neg (by omega), if_pos h2, if_pos h3]

theorem busTarget_dst {c : Config} {off : Nat} (h1 : 0x20000 ≤ off) (h2 : off < 0x40000)
    (h3 : off - 0x20000 < c.dstSize) : busTarget c off = some (.dst (off - 0x20000)) := by
  rw [busTarget, if_neg (by omega), if_neg (by omega), if_neg (by omega), if_neg (by omega), if_pos h2, if_pos h3]

theorem busTarget_rxbuf {c : Config} {off : Nat} (h1 : 0x40000 ≤ off) (h2 : off < 0x50000)
    (h3 : off - 0x40000 < c.rxbufSize) : busTarget c off = some (.rxbuf (off - 0x40000)) := by
  rw [busTarget, if_neg (by omega), if_neg (by omega), if_neg (by omega), if_neg (by omega), if_neg (by omega),
    if_pos h2, if_pos h3]

/-- The step with an input waiting is that input's. -/
theorem step_cons {s : State} {x : Input} {rest : List Input} (h : s.inputs = x :: rest) :
    step s = runInput x { s with inputs := rest } := by
  simp only [step, nextStep, h]

/-- The step with nothing waiting is the CU's turn. -/
theorem step_nil {s : State} (h : s.inputs = []) : step s = cuStep s := by
  simp only [step, nextStep, h]

theorem step_read {s : State} {rest : List Input} {width : Width} {addr : Nat} {t : Target}
    (h : s.inputs = .read width addr :: rest) (ht : resolve s.cfg width addr = some t) :
    step s = .next (State.deliver { s with inputs := rest } (readTarget { s with inputs := rest } t)) := by
  rw [step_cons h]
  simp only [runInput, hostRead, ht]

theorem step_write {s : State} {rest : List Input} {width : Width} {addr : Nat} {v : Word} {t : Target}
    (h : s.inputs = .write width addr v :: rest) (ht : resolve s.cfg width addr = some t) :
    step s =
      if s.cuBusy = true ∧ t.isOperand = true then .fault (.hazardViolation .operandWrite)
      else if s.cuBusy = true ∧ t = .cmd then .fault (.hazardViolation .cmdWhileBusy)
      else writeTarget t v { s with inputs := rest } := by
  rw [step_cons h]
  simp only [runInput, hostWrite, ht]

theorem step_unmapped {s : State} {rest : List Input} {width : Width} {addr : Nat} {v : Word}
    (h : s.inputs = .read width addr :: rest ∨ s.inputs = .write width addr v :: rest)
    (ht : resolve s.cfg width addr = none) : step s = .fault (.busError addr) := by
  rcases h with h | h
  · rw [step_cons h]
    simp only [runInput, hostRead, ht]
  · rw [step_cons h]
    simp only [runInput, hostWrite, ht]

/-- Everything handing the host a value can change. -/
theorem State.deliver_sameBlock (s : State) (r : ReadValue) : s.SameBlock (s.deliver r) := by
  unfold State.deliver State.SameBlock
  split <;> rfl

/-- The four lanes of a word put together are the word. -/
theorem busWord_lanes (w : Word) : busWord (laneOf w 0) (laneOf w 1) (laneOf w 2) (laneOf w 3) = w := by
  unfold busWord laneOf
  ext i hi
  simp only [BitVec.getElem_append, BitVec.getElem_extractLsb']
  split_ifs <;> simp only [← BitVec.getLsbD_eq_getElem] <;> congr 1 <;> omega

/-- A wholly undefined value is one fresh free word. -/
theorem State.deliver_anyWord (s : State) :
    s.deliver .anyWord = { s with lastRead := some (Config.freeWord s.draws), draws := s.draws + 1 } := by
  simp only [ReadValue.anyWord, State.deliver, Option.getD_none, busWord_lanes]

/-- Everything a legal host write can do, but for the RX ports: it answers a next state. -/
theorem writeTarget_next (t : Target) (v : Word) (s : State) (h1 : t ≠ .rxCtrl) (h2 : t ≠ .rxData) :
    ∃ s', writeTarget t v s = .next s' := by
  cases t <;> first | exact ⟨_, rfl⟩ | contradiction | (simp only [writeTarget]; split <;> exact ⟨_, rfl⟩)

end Sys2Proof.Machine
end

