-- ==== Sys2Proof/Laws/Primitives.lean ====
section
/-! SUPPORT. Lengths and ranges of the primitives: Fletcher, SHA-256, HMAC, AES-128 and the byte helpers. -/

namespace Sys2Proof.Machine

@[simp] theorem length_zeros (n : Nat) : (zeros n).length = n := by
  simp [zeros]

@[simp] theorem length_u16be (v : Nat) : (u16be v).length = 2 := rfl

@[simp] theorem length_u32le (v : Word) : (u32le v).length = 4 := rfl

@[simp] theorem length_checksumBytes (ab : Byte × Byte) : (checksumBytes ab).length = 2 := rfl

@[simp] theorem length_checksum (d : List Byte) : (checksum d).length = 2 := rfl

@[simp] theorem length_frameEncode (p : List Byte) : (frameEncode p).length = p.length + 6 := by
  simp [frameEncode]
  omega

@[simp] theorem length_groupText (ts : Word) (sender message : List Byte) :
    (groupText ts sender message).length = sender.length + message.length + 7 := by
  simp [groupText]
  omega

/-- The padded length is the least multiple of 16 that is not below. -/
theorem ceil16_spec (n : Nat) : ceil16 n % 16 = 0 ∧ n ≤ ceil16 n ∧ ceil16 n < n + 16 := by
  unfold ceil16
  omega

@[simp] theorem length_padBlock (pt : List Byte) : (padBlock pt).length = ceil16 pt.length := by
  have := (ceil16_spec pt.length).2.1
  simp [padBlock]
  omega

@[simp] theorem length_beBytes (w : Word) : (beBytes w).length = 4 := rfl

@[simp] theorem length_sha256 (m : List Byte) : (sha256 m).length = 32 := by
  simp [sha256, HashState.toBytes]

@[simp] theorem length_hmacSha256 (k m : List Byte) : (hmacSha256 k m).length = 32 := by
  simp [hmacSha256]

@[simp] theorem length_macOf (secret ct : List Byte) : (macOf secret ct).length = 2 := by
  simp [macOf, macLen]

/-- One byte into the accumulators, as numbers. -/
theorem fletcherStep_toNat (ab : Byte × Byte) (x : Byte) :
    (fletcherStep ab x).1.toNat = (ab.1.toNat + x.toNat) % 255 ∧
      (fletcherStep ab x).2.toNat = (ab.2.toNat + (ab.1.toNat + x.toNat) % 255) % 255 := by
  simp only [fletcherStep, csumMod, BitVec.toNat_ofNat]
  omega

/-- Each accumulator stays in 0..254. -/
theorem fletcherStep_le (ab : Byte × Byte) (x : Byte) :
    (fletcherStep ab x).1.toNat ≤ 254 ∧ (fletcherStep ab x).2.toNat ≤ 254 := by
  have := fletcherStep_toNat ab x
  omega

@[simp] theorem fletcher_nil (a b : Byte) : fletcher a b [] = (a, b) := rfl

theorem fletcher_cons (a b x : Byte) (d : List Byte) :
    fletcher a b (x :: d) = fletcher (fletcherStep (a, b) x).1 (fletcherStep (a, b) x).2 d := rfl

/-- The fold keeps both accumulators in 0..254. -/
theorem fletcher_le {a b : Byte} (ha : a.toNat ≤ 254) (hb : b.toNat ≤ 254) (d : List Byte) :
    (fletcher a b d).1.toNat ≤ 254 ∧ (fletcher a b d).2.toNat ≤ 254 := by
  induction d generalizing a b with
  | nil => exact ⟨ha, hb⟩
  | cons x d ih =>
    obtain ⟨h1, h2⟩ := fletcherStep_le (a, b) x
    exact ih h1 h2

@[simp] theorem length_xorBytes (x y : List Byte) : (xorBytes x y).length = min x.length y.length := by
  simp [xorBytes]

@[simp] theorem length_aesSubBytes (s : List Byte) : (aesSubBytes s).length = s.length := by
  simp [aesSubBytes]

@[simp] theorem length_aesShiftRows (s : List Byte) : (aesShiftRows s).length = 16 := by
  simp [aesShiftRows]

theorem length_aesMixColumns {s : List Byte} (h : s.length = 16) : (aesMixColumns s).length = 16 := by
  match s, h with
  | [_, _, _, _, _, _, _, _, _, _, _, _, _, _, _, _], _ => rfl

theorem length_aesNextKey (rcon : Byte) {key : List Byte} (h : key.length = 16) : (aesNextKey rcon key).length = 16 := by
  simp [aesNextKey, rotWord, h]

/-- With a full key the rounds give a full block. -/
theorem length_aesRounds (rcons : List Byte) {key s : List Byte} (hk : key.length = 16) (hs : s.length = 16) :
    (aesRounds rcons key s).length = 16 := by
  induction rcons generalizing key s with
  | nil => exact hs
  | cons rcon rest ih =>
    have hkey := length_aesNextKey rcon hk
    cases rest with
    | nil => simp [aesRounds, hkey]
    | cons r rs => exact ih hkey (by simp [length_aesMixColumns, hkey])

/-- AES-128 of a block under a full key is a block. -/
theorem length_aes128 {key block : List Byte} (hk : key.length = 16) (hb : block.length = 16) :
    (aes128 key block).length = 16 :=
  length_aesRounds _ hk (by simp [hk, hb])

@[simp] theorem length_pieces (n k : Nat) (l : List Byte) : (pieces n k l).length = k := by
  induction k generalizing l with
  | zero => rfl
  | succ k ih => simp [pieces, ih]

/-- Whatever the key's length, the rounds give at most a block. -/
theorem length_aesRounds_le (rcons : List Byte) (key s : List Byte) (h : rcons ≠ []) :
    (aesRounds rcons key s).length ≤ 16 := by
  induction rcons generalizing key s with
  | nil => contradiction
  | cons rcon rest ih =>
    cases rest with
    | nil => simp [aesRounds]
    | cons r rs => exact ih _ _ (by simp)

/-- The ciphertext is never longer than the padded plaintext. -/
theorem length_ecbEncrypt_le (secret pt : List Byte) : (ecbEncrypt secret pt).length ≤ ceil16 pt.length := by
  have h : ∀ l : List (List Byte), ((l.map (aes128 (secret.take keyLen))).flatten).length ≤ 16 * l.length := by
    intro l
    induction l with
    | nil => simp
    | cons b l ih =>
      have hb : (aes128 (secret.take keyLen) b).length ≤ 16 := length_aesRounds_le _ _ _ (by decide)
      simp only [List.map_cons, List.flatten_cons, List.length_append, List.length_cons] at ih ⊢
      omega
  have hc := ceil16_spec pt.length
  refine (h _).trans ?_
  rw [length_pieces, length_padBlock]
  unfold blockBytes
  omega

/-- Piece `j` of a sequence. -/
theorem getElem?_pieces (n k j : Nat) (l : List Byte) (h : j < k) :
    (pieces n k l)[j]? = some ((l.drop (n * j)).take n) := by
  induction k generalizing l j with
  | zero => omega
  | succ k ih =>
    cases j with
    | zero => simp [pieces]
    | succ j =>
      rw [pieces, List.getElem?_cons_succ, ih j _ (by omega), List.drop_drop]
      congr 3
      ring

end Sys2Proof.Machine
end

