-- ==== Sys2Proof/Laws/Commands.lean ====
section
/-! SUPPORT. For each command, everything its completion step can do when it answers a next state; and what writing DST
leaves. -/

namespace Sys2Proof.Machine

/-- What DST reads as after a command wrote its output. -/
theorem State.byteAt_putDst (s : State) (bs : List Byte) (k : Nat) :
    Memory.byteAt (s.putDst bs).dst k = if k < bs.length then bs[k]? else Memory.byteAt s.dst k := by
  simp [Memory.byteAt_putBytes]

theorem execCsumAcc_next {s t : State} (h : execCsumAcc s = .next t) :
    t = s.raiseError .srcLenRange ∨
      (s.SrcReady ∧
        t = ((s.setCsum (fletcher s.csumA s.csumB s.srcData)).setResult
          (checksumWord (fletcher s.csumA s.csumB s.srcData))).finish) := by
  refine (checkSrcLen_next h).imp_right fun ⟨h1, h⟩ => ?_
  obtain ⟨h2, h⟩ := consumeSrc_next h
  rw [Nat.zero_add] at h2 h
  cases h
  exact ⟨⟨h1, h2⟩, rfl⟩

theorem execCsumCompute_next {s t : State} (h : execCsumCompute s = .next t) :
    t = s.raiseError .srcLenRange ∨ t = s.raiseError .outOvf ∨
      (s.SrcReady ∧ 2 ≤ s.cfg.dstSize ∧
        t = (((s.setCsum (fletcher 0 0 s.srcData)).setResult (checksumWord (fletcher 0 0 s.srcData))).putDst
          (checksum s.srcData)).finish) := by
  refine (checkSrcLen_next h).imp_right fun ⟨h1, h⟩ => (checkOut_next h).imp_right fun ⟨h3, h⟩ => ?_
  obtain ⟨h2, h⟩ := consumeSrc_next h
  rw [Nat.zero_add] at h2 h
  cases h
  exact ⟨⟨h1, h2⟩, h3, rfl⟩

theorem execCsumVerify_next {s t : State} (h : execCsumVerify s = .next t) :
    t = s.raiseError .srcLenRange ∨ t = s.raiseError .argRange ∨
      (s.SrcReady ∧ ∃ v, t = ((s.setCsum (fletcher 0 0 s.srcData)).setResult v).finish) := by
  refine (checkSrcLen_next h).imp_right fun ⟨h1, h⟩ => (checkArg_next h).imp_right fun ⟨_, h⟩ => ?_
  obtain ⟨h2, h⟩ := consumeSrc_next h
  rw [Nat.zero_add] at h2 h
  cases h
  exact ⟨⟨h1, h2⟩, _, rfl⟩

theorem execFrameEncode_next {s t : State} (h : execFrameEncode s = .next t) :
    t = s.raiseError .srcLenRange ∨ t = s.raiseError .frameLen ∨ t = s.raiseError .outOvf ∨
      (s.SrcReady ∧ s.srcLen.toNat ≤ 65535 ∧ s.srcLen.toNat + 6 ≤ s.cfg.dstSize ∧
        ∃ v, t = ((s.putDst (frameEncode s.srcData)).setResult v).finish) := by
  refine (checkSrcLen_next h).imp_right fun ⟨h1, h⟩ => ?_
  split at h
  · cases h
    exact .inl rfl
  · rename_i h4
    refine .inr ((checkOut_next h).imp_right fun ⟨h3, h⟩ => ?_)
    obtain ⟨h2, h⟩ := consumeSrc_next h
    rw [Nat.zero_add] at h2 h
    cases h
    exact ⟨⟨h1, h2⟩, by unfold maxPacket at h4; omega, h3, _, rfl⟩

theorem execHdrPack_next {s t : State} (h : execHdrPack s = .next t) :
    t = s.raiseError .argRange ∨ ∃ v, t = (s.setResult v).finish := by
  refine (checkArg_next h).imp_right fun ⟨_, h⟩ => ?_
  cases h
  exact ⟨_, rfl⟩

theorem execHdrUnpack_next {s t : State} (h : execHdrUnpack s = .next t) :
    t = s.raiseError .argRange ∨ ∃ v, t = (s.setResult v).finish := by
  refine (checkArg_next h).imp_right fun ⟨_, h⟩ => ?_
  cases h
  exact ⟨_, rfl⟩

theorem execPktParse_next {s t : State} (h : execPktParse s = .next t) :
    t = s.raiseError .srcLenRange ∨ t = s.raiseError .pktShort ∨ t = s.raiseError .pathOverrun ∨
      t = s.raiseError .outOvf ∨
      (s.srcLen.toNat ≤ s.cfg.srcSize ∧
        ∃ v payload, payload.length ≤ s.cfg.dstSize ∧ payload.length ≤ s.srcLen.toNat ∧
          t = ((s.setResult v).putDst payload).finish) := by
  refine (checkSrcLen_next h).imp_right fun ⟨h1, h⟩ => ?_
  split at h
  · cases h
    exact .inl rfl
  · obtain ⟨pl, -, h⟩ := consumeByte_next h
    split at h
    · cases h
      exact .inr (.inl rfl)
    · refine .inr (.inr ((checkOut_next h).imp_right fun ⟨h3, h⟩ => ?_))
      obtain ⟨hd, -, h⟩ := consumeByte_next h
      obtain ⟨-, h⟩ := consumeSrc_next h
      cases h
      exact ⟨h1, _, _, by simpa using h3, by simp; omega, rfl⟩

theorem execChash_next {s t : State} (h : execChash s = .next t) :
    t = s.raiseError .secretLen ∨ ∃ v, t = (s.setResult v).finish := by
  refine (checkSecretLen_next h).imp_right fun ⟨_, h⟩ => ?_
  cases h
  exact ⟨_, rfl⟩

theorem execEncMac_next {s t : State} (h : execEncMac s = .next t) :
    t = s.raiseError .srcLenRange ∨ t = s.raiseError .secretLen ∨ t = s.raiseError .outOvf ∨
      (s.SrcReady ∧ s.SecretLegal ∧ 2 + ceil16 s.srcLen.toNat ≤ s.cfg.dstSize ∧
        t = ((s.putDst (encryptThenMac s.secretBytes s.srcData)).setResult
          (pairWord ((encryptThenMac s.secretBytes s.srcData).getD 0 0)
            ((encryptThenMac s.secretBytes s.srcData).getD 1 0))).finish) := by
  refine (checkSrcLen_next h).imp_right fun ⟨h1, h⟩ => (checkSecretLen_next h).imp_right fun ⟨h4, h⟩ =>
    (checkOut_next h).imp_right fun ⟨h3, h⟩ => ?_
  obtain ⟨h2, h⟩ := consumeSrc_next h
  rw [Nat.zero_add] at h2 h
  cases h
  exact ⟨⟨h1, h2⟩, h4, h3, rfl⟩

theorem execGtxtBuild_next {s t : State} (h : execGtxtBuild s = .next t) :
    t = s.raiseError .srcLenRange ∨ t = s.raiseError .argRange ∨ t = s.raiseError .outOvf ∨
      (s.srcLen.toNat ≤ s.cfg.srcSize ∧ s.arg1.toNat ≤ s.srcLen.toNat ∧ s.srcLen.toNat + 7 ≤ s.cfg.dstSize ∧
        t = (s.putDst (groupText s.arg0 (s.srcBytes 0 s.arg1.toNat)
          (s.srcBytes s.arg1.toNat s.srcLen.toNat))).finish) := by
  refine (checkSrcLen_next h).imp_right fun ⟨h1, h⟩ => (checkArg_next h).imp_right fun ⟨h4, h⟩ =>
    (checkOut_next h).imp_right fun ⟨h3, h⟩ => ?_
  obtain ⟨-, h⟩ := consumeSrc_next h
  obtain ⟨-, h⟩ := consumeSrc_next h
  have h5 : s.arg1.toNat ≤ s.srcLen.toNat := by simpa using h4
  rw [Nat.zero_add, Nat.add_sub_cancel' h5] at h
  cases h
  exact ⟨h1, h5, h3, rfl⟩

theorem execGtxtPacket_next {s t : State} (h : execGtxtPacket s = .next t) :
    t = s.raiseError .srcLenRange ∨ t = s.raiseError .secretLen ∨ t = s.raiseError .argRange ∨
      t = s.raiseError .outOvf ∨
      (s.srcLen.toNat ≤ s.cfg.srcSize ∧ s.SecretLegal ∧ s.arg1.toNat ≤ s.srcLen.toNat ∧
        5 + ceil16 (s.srcLen.toNat + 7) ≤ s.cfg.dstSize ∧
        t = (s.putDst (groupTextPacket s.secretBytes (s.srcBytes 0 s.arg1.toNat)
          (s.srcBytes s.arg1.toNat s.srcLen.toNat) s.arg0)).finish) := by
  refine (checkSrcLen_next h).imp_right fun ⟨h1, h⟩ => (checkSecretLen_next h).imp_right fun ⟨h6, h⟩ =>
    (checkArg_next h).imp_right fun ⟨h4, h⟩ => (checkOut_next h).imp_right fun ⟨h3, h⟩ => ?_
  obtain ⟨-, h⟩ := consumeSrc_next h
  obtain ⟨-, h⟩ := consumeSrc_next h
  have h5 : s.arg1.toNat ≤ s.srcLen.toNat := by simpa using h4
  rw [Nat.zero_add, Nat.add_sub_cancel' h5] at h
  cases h
  exact ⟨h1, h6, h5, h3, rfl⟩

end Sys2Proof.Machine
end

