-- ==== Sys2Proof/Laws/Decode.lean ====
section
/-! SUPPORT. The fields of the words the encoder builds, and the decoder's answers by field. -/

namespace Sys2Proof.Machine

theorem decodeCmd_of_rsvd {w : Word} (h : rsvdOf w ≠ 0) : decodeCmd w = .reject .rsvdBits :=
  if_pos h

theorem decodeCmd_of_opcode {w : Word} (h : rsvdOf w = 0) {i : Instr} (hi : opcodeMap.lookup (opcodeOf w) = some i) :
    decodeCmd w = .instr i := by
  rw [decodeCmd, if_neg (not_not_intro h), hi]

theorem decodeCmd_of_unassigned {w : Word} (h : rsvdOf w = 0) (hi : opcodeMap.lookup (opcodeOf w) = none) :
    decodeCmd w = .reject .illegalOpcode := by
  rw [decodeCmd, if_neg (not_not_intro h), hi]

/-- What the opcode map holds. -/
theorem opcodeMap_lookup {op : Byte} {i : Instr} (h : opcodeMap.lookup op = some i) :
    encode i = (.cmd, cmdWord op) ∧ i.wellFormed = true := by
  revert h
  simp only [opcodeMap, List.lookup]
  repeat' split
  all_goals first
    | (intro h; cases h; rename_i hop; rw [beq_iff_eq] at hop; subst hop; exact ⟨rfl, rfl⟩)
    | (intro h; cases h)

@[simp] theorem opcodeOf_cmdWord (op : Byte) : opcodeOf (cmdWord op) = op := by
  unfold opcodeOf cmdWord
  rw [BitVec.extractLsb'_append_eq_right]

@[simp] theorem rsvdOf_cmdWord (op : Byte) : rsvdOf (cmdWord op) = 0 := by
  unfold rsvdOf cmdWord
  ext k hk
  simp only [BitVec.getElem_extractLsb', BitVec.getLsbD_append]
  simp

/-- A command word is its two fields. -/
theorem cmdWord_of_fields {w : Word} (h : rsvdOf w = 0) : cmdWord (opcodeOf w) = w := by
  apply BitVec.eq_of_getLsbD_eq
  intro k hk
  unfold cmdWord opcodeOf
  simp only [BitVec.getLsbD_append, BitVec.getLsbD_extractLsb']
  by_cases hk8 : k < 8
  · simp [hk8]
  · have := congrArg (fun v => v.getLsbD (k - 8)) h
    simp only [rsvdOf, BitVec.getLsbD_extractLsb'] at this
    rw [show 8 + (k - 8) = k by omega] at this
    simp only [show k - 8 < 24 by omega, decide_true, Bool.true_and] at this
    simp [hk8, this]

@[simp] theorem rxCtrlWord_ack (ign : BitVec 29) (rst eos ack : Bool) : (rxCtrlWord ign rst eos ack)[0] = ack := by
  rw [← BitVec.getLsbD_eq_getElem]
  unfold rxCtrlWord
  simp only [BitVec.getLsbD_append]
  simp

@[simp] theorem rxCtrlWord_eos (ign : BitVec 29) (rst eos ack : Bool) : (rxCtrlWord ign rst eos ack)[1] = eos := by
  rw [← BitVec.getLsbD_eq_getElem]
  unfold rxCtrlWord
  simp only [BitVec.getLsbD_append]
  simp

@[simp] theorem rxCtrlWord_rst (ign : BitVec 29) (rst eos ack : Bool) : (rxCtrlWord ign rst eos ack)[2] = rst := by
  rw [← BitVec.getLsbD_eq_getElem]
  unfold rxCtrlWord
  simp only [BitVec.getLsbD_append]
  simp

@[simp] theorem rxCtrlWord_ignored (ign : BitVec 29) (rst eos ack : Bool) :
    (rxCtrlWord ign rst eos ack).extractLsb' 3 29 = ign := by
  apply BitVec.eq_of_getLsbD_eq
  intro k hk
  unfold rxCtrlWord
  simp only [BitVec.getLsbD_extractLsb', BitVec.getLsbD_append]
  simp [hk, show ¬ 3 + k < 1 by omega]

/-- An RX_CTRL word is its four fields. -/
theorem rxCtrlWord_of_fields (w : Word) :
    rxCtrlWord (w.extractLsb' 3 29) w[2] w[1] w[0] = w := by
  apply BitVec.eq_of_getLsbD_eq
  intro k hk
  unfold rxCtrlWord
  simp only [BitVec.getLsbD_append]
  match k, hk with
  | 0, _ => simp
  | 1, _ => simp
  | 2, _ => simp
  | k + 3, hk =>
    simp only [BitVec.getLsbD_extractLsb']
    simp [show k < 29 by omega, Nat.add_comm]

/-- An RX_DATA word's byte and the bits it does not read. -/
theorem rxDataWord_fields (x : Byte) (ign : BitVec 24) :
    (ign ++ x : BitVec 32).extractLsb' 0 8 = x ∧ (ign ++ x : BitVec 32).extractLsb' 8 24 = ign := by
  constructor
  · rw [BitVec.extractLsb'_append_eq_right]
  · rw [BitVec.extractLsb'_append_eq_left]

end Sys2Proof.Machine
end

