-- ==== Sys2Proof/Laws/PerInstr.lean ====
section
/-! SUPPORT. Per-instruction facts about the encoding: the word the encoder builds for an instruction fits the mask and
match of that instruction's row in spec/opcode_table.json, whatever its operand bits. -/

namespace Sys2Proof.Laws.EncodingRow

/-- The encoded word matches the instruction's own row of the opcode table (30_encoding R82, R84). -/
def Statement (i : Instr) : Prop :=
  (encode i).2 &&& (tableRow i).1 = (tableRow i).2

theorem csumClr : Statement .csumClr := by unfold Statement; decide

theorem csumAcc : Statement .csumAcc := by unfold Statement; decide

theorem csumCompute : Statement .csumCompute := by unfold Statement; decide

theorem csumVerify : Statement .csumVerify := by unfold Statement; decide

theorem frameEncode : Statement .frameEncode := by unfold Statement; decide

theorem hdrPack : Statement .hdrPack := by unfold Statement; decide

theorem hdrUnpack : Statement .hdrUnpack := by unfold Statement; decide

theorem pktParse : Statement .pktParse := by unfold Statement; decide

theorem chash : Statement .chash := by unfold Statement; decide

theorem encMac : Statement .encMac := by unfold Statement; decide

theorem gtxtBuild : Statement .gtxtBuild := by unfold Statement; decide

theorem gtxtPacket : Statement .gtxtPacket := by unfold Statement; decide

theorem rxByte (x : Byte) (ignored : BitVec 24) : Statement (.rxByte x ignored) := by
  show (ignored ++ x : BitVec 32) &&& (0#32) = 0#32
  exact BitVec.and_zero

/-- The low three bits of a word, one by one. -/
theorem and_seven (w : Word) :
    w &&& (7 : Word) = (0 : BitVec 29) ++ BitVec.ofBool w[2] ++ BitVec.ofBool w[1] ++ BitVec.ofBool w[0] := by
  apply BitVec.eq_of_getLsbD_eq
  intro k hk
  simp only [BitVec.getLsbD_and, BitVec.getLsbD_append]
  interval_cases k <;> simp

/-- A row's mask of action bits sees those bits of an `RX_CTRL` word alone. -/
theorem rxCtrlWord_mask (ignored : BitVec 29) (rst eos ack : Bool) (m : Word) (hm : 7 &&& m = m) :
    rxCtrlWord ignored rst eos ack &&& m =
      ((0 : BitVec 29) ++ BitVec.ofBool rst ++ BitVec.ofBool eos ++ BitVec.ofBool ack) &&& m := by
  have h := and_seven (rxCtrlWord ignored rst eos ack)
  simp only [Machine.rxCtrlWord_ack, Machine.rxCtrlWord_eos, Machine.rxCtrlWord_rst] at h
  rw [← h, BitVec.and_assoc, hm]

theorem rxAck (eos : Bool) (ignored : BitVec 29) : Statement (.rxAck eos ignored) := by
  show rxCtrlWord ignored false eos true &&& 0x00000005 = 0x00000001
  rw [rxCtrlWord_mask _ _ _ _ _ (by decide)]
  cases eos <;> decide

theorem rxEos (ack : Bool) (ignored : BitVec 29) : Statement (.rxEos ack ignored) := by
  show rxCtrlWord ignored false true ack &&& 0x00000006 = 0x00000002
  rw [rxCtrlWord_mask _ _ _ _ _ (by decide)]
  cases ack <;> decide

theorem rxRst (ack eos : Bool) (ignored : BitVec 29) : Statement (.rxRst ack eos ignored) := by
  show rxCtrlWord ignored true eos ack &&& 0x00000004 = 0x00000004
  rw [rxCtrlWord_mask _ _ _ _ _ (by decide)]
  cases ack <;> cases eos <;> decide

end Sys2Proof.Laws.EncodingRow
end

