-- ==== Sys2Proof/Laws/Receive.lean ====
section
/-! SUPPORT. The receive decoder: which operation a byte runs in each state, what a stored body byte does to RXBUF, and the
steps of a host that feeds a stream. -/

namespace Sys2Proof.Machine

theorem Rx.byte_magic {r : Rx} (h : r.state = .magic) (d : Bool) (x : Byte) : r.byte d x = r.magicByte d x := by
  rw [Rx.byte, h]

theorem Rx.byte_length {r : Rx} (h : r.state = .length) (d : Bool) (x : Byte) : r.byte d x = r.lengthByte x := by
  rw [Rx.byte, h]

theorem Rx.byte_body {r : Rx} (h : r.state = .body) (d : Bool) (x : Byte) : r.byte d x = r.bodyByte x := by
  rw [Rx.byte, h]

theorem Rx.byte_csum {r : Rx} (h : r.state = .csum) (d : Bool) (x : Byte) : r.byte d x = r.csumByte x := by
  rw [Rx.byte, h]

theorem Rx.byte_dropped {r : Rx} (h : r.state = .hold ∨ r.state = .closed) (d : Bool) (x : Byte) :
    r.byte d x = { r with ovf := true } := by
  rcases h with h | h <;> rw [Rx.byte, h]

theorem Rx.eos_unfinished {r : Rx} (h1 : r.state ≠ .hold) (h2 : r.state ≠ .closed) :
    r.eos = { r.clearBuf with eosf := true, state := .closed, valid := false, ecode := .truncated, rcnt := 0 } := by
  cases h : r.state <;> simp_all [Rx.eos]

theorem Rx.eos_finished {r : Rx} (h : r.state = .hold ∨ r.state = .closed) : r.eos = { r with eosf := true } := by
  rcases h with h | h <;> rw [Rx.eos, h]

theorem Rx.ack_idle {r : Rx} (h : r.state ≠ .hold) : r.ack = r := by
  cases h' : r.state <;> simp_all [Rx.ack]

/-- Storing at the end of a buffer that holds indexes `0 .. n` appends. -/
theorem Memory.put_append {m : Memory} {n : Nat} (h : m.map Prod.fst = List.range n) (x : Byte) :
    Memory.put m n x = m ++ [(n, x)] := by
  have hlt : ∀ c ∈ m, c.1 < n := fun c hc => by
    have : c.1 ∈ m.map Prod.fst := List.mem_map_of_mem hc
    rwa [h, List.mem_range] at this
  clear h
  induction m with
  | nil => rfl
  | cons c m ih =>
    have := hlt c (by simp)
    rw [Memory.put, if_neg (by omega), if_neg (by omega), ih fun c hc => hlt c (by simp [hc])]
    rfl

/-- One fed byte is one byte of the decoder. -/
theorem step_feed {s : State} {x : Byte} {bs : List Byte} {rest : List Input} (hb : s.cfg.base % 4 = 0)
    (h : s.inputs = feedInputs s.cfg (x :: bs) ++ rest) :
    step s = .next { s with inputs := feedInputs s.cfg bs ++ rest, rx := s.rx.byte s.dskip x } := by
  have h : s.inputs = .write .word (s.cfg.base + 0x44) (x.setWidth 32) :: (feedInputs s.cfg bs ++ rest) := h
  rw [step_write h (resolve_word hb (by decide))]
  have hx : (x.setWidth 32).extractLsb' 0 8 = x := by
    apply BitVec.eq_of_getLsbD_eq
    intro k hk
    simp [hk, show k < 32 by omega]
  simp [Target.isOperand, writeTarget, runRxWord, decode, decodeRxData, exec, execRxByte, State.setRx, hx]

/-- A fed stream runs the decoder over its bytes and changes nothing else. -/
theorem run_feed {bs : List Byte} {s : State} {rest : List Input} (hb : s.cfg.base % 4 = 0)
    (h : s.inputs = feedInputs s.cfg bs ++ rest) :
    core.run bs.length s = .next { s with inputs := rest, rx := bs.foldl (fun r x => r.byte s.dskip x) s.rx } := by
  induction bs generalizing s with
  | nil =>
    have h : s.inputs = rest := h
    subst h
    rfl
  | cons x bs ih =>
    have e : core.step s = _ := step_feed hb h
    simp only [List.length_cons, Host.Core.run, e]
    exact ih (s := { s with inputs := feedInputs s.cfg bs ++ rest, rx := s.rx.byte s.dskip x }) hb rfl

end Sys2Proof.Machine
end

