-- ==== Sys2Proof/Tests/Slice0.lean ====
section
/-! SUPPORT. Tests: words written out from the encodings, one-step checks against the vectors of 95_test_vectors.md (each
named by its id), and for every statement with hypotheses a state that meets them. -/

namespace Sys2Proof.Tests

open Sys2Proof.Machine

/-! ## Helpers -/

/-- The reset state with bytes written to SRC and `SRC_LEN` their count (`LOADSRC`). -/
def load (bs : List Byte) : State :=
  { State.reset with src := Memory.putBytes [] 0 bs, srcLen := BitVec.ofNat 17 bs.length }

/-- `load` with both arguments. -/
def loadArgs (bs : List Byte) (arg0 arg1 : Word) : State :=
  { load bs with arg0 := arg0, arg1 := arg1 }

/-- The reset state with another secret length and other buffer sizes. -/
def sized (s : State) (srcSize dstSize : Nat) : State :=
  { s with cfg := { s.cfg with srcSize := srcSize, dstSize := dstSize } }

/-- `n` bytes of SRC written, `SRC_LEN` something else. -/
def partly (bs : List Byte) (srcLen : BitVec 17) : State :=
  { load bs with srcLen := srcLen }

/-- A state with a busy CU and the word it runs. -/
def busy (w : Word) : State :=
  { State.reset with cuBusy := true, cuCmd := w }

/-- A state with inputs waiting. -/
def withInputs (s : State) (xs : List Input) : State :=
  { s with inputs := xs }

/-- `STATUS`, `RESULT`, `DST_LEN` and the first `n` bytes of DST after an answer `next`. -/
def outcome (r : Result) (n : Nat) : Option (Word × Word × Nat × List (Option Byte)) :=
  (nextOf r).map fun t => (t.statusWord, t.result, t.dstLen.toNat, (List.range n).map (Memory.byteAt t.dst))

/-- `STATUS`, `RESULT` and `CSUM` after an answer `next`. -/
def sums (r : Result) : Option (Word × Word × Word) :=
  (nextOf r).map fun t => (t.statusWord, t.result, t.csumWord)

/-- The reset state after a stream was fed to the decoder. -/
def fed (dskip : Bool) (bs : List Byte) : State :=
  { State.reset with dskip := dskip, rx := bs.foldl (fun r x => r.byte dskip x) Rx.reset }

/-- `RX_STATUS`, `RX_LEN`, `RX_CSUM` and the first `n` body bytes after an answer `next`. -/
def rxOutcome (r : Result) (n : Nat) : Option (Word × Nat × Word × List (Option Byte)) :=
  (nextOf r).map fun t => (t.rx.statusWord, t.rx.len.toNat, t.rx.csum, (List.range n).map t.rx.bodyAt)

/-- The word the host read, and how many free values were drawn. -/
def readOutcome (r : Result) : Option (Option Word × Nat) :=
  (nextOf r).map fun t => (t.lastRead, t.draws)

/-- A state whose next step is a word access at an offset. -/
def reading (s : State) (off : Nat) : State := withInputs s [.read .word off]

def writing (s : State) (off : Nat) (v : Word) : State := withInputs s [.write .word off v]

/-- `"abcde"`. -/
def abcde : List Byte := [0x61, 0x62, 0x63, 0x64, 0x65]

/-- `"Alicehi"`. -/
def aliceHi : List Byte := [0x41, 0x6C, 0x69, 0x63, 0x65, 0x68, 0x69]

/-- The frame of V-RX1. -/
def frame1 : List Byte := [0xC0, 0x3E, 0x00, 0x02, 0x15, 0x00, 0x2A, 0x15]

/-! ## Encoding: words from 30_encoding R82, R84 bit by bit -/

theorem test_decode_csumClr : decodeTableWord 32 0b00000000000000000000000000000001 = some .csumClr := by decide

theorem test_decode_csumAcc : decodeTableWord 32 0b00000000000000000000000000000010 = some .csumAcc := by decide

theorem test_decode_csumCompute : decodeTableWord 32 0b00000000000000000000000000000011 = some .csumCompute := by decide

theorem test_decode_csumVerify : decodeTableWord 32 0b00000000000000000000000000000100 = some .csumVerify := by decide

theorem test_decode_frameEncode : decodeTableWord 32 0b00000000000000000000000000010000 = some .frameEncode := by decide

theorem test_decode_hdrPack : decodeTableWord 32 0b00000000000000000000000000100000 = some .hdrPack := by decide

theorem test_decode_hdrUnpack : decodeTableWord 32 0b00000000000000000000000000100001 = some .hdrUnpack := by decide

theorem test_decode_pktParse : decodeTableWord 32 0b00000000000000000000000000100010 = some .pktParse := by decide

theorem test_decode_chash : decodeTableWord 32 0b00000000000000000000000000110000 = some .chash := by decide

theorem test_decode_encMac : decodeTableWord 32 0b00000000000000000000000000110001 = some .encMac := by decide

theorem test_decode_gtxtBuild : decodeTableWord 32 0b00000000000000000000000001000000 = some .gtxtBuild := by decide

theorem test_decode_gtxtPacket : decodeTableWord 32 0b00000000000000000000000001000001 = some .gtxtPacket := by decide

theorem test_decode_rxByte :
    decode .rxData 0b11111111000000000000000110100101 = .instr (.rxByte 0xA5 0xFF0001) := by decide

theorem test_decode_rxByte_table :
    decodeTableWord 32 0b00000000000000000000000000000000 = some (.rxByte 0x00 0) := by decide

theorem test_decode_rxAck : decodeTableWord 8 0b00000001 = some (.rxAck false 0) := by decide

theorem test_decode_rxEos : decodeTableWord 8 0b00000010 = some (.rxEos false 0) := by decide

theorem test_decode_rxAckEos :
    decode .rxCtrl 0b10000000000000000000000000000011 = .instr (.rxAck true 0x10000000) := by decide

theorem test_decode_rxRst : decodeTableWord 8 0b00000100 = some (.rxRst false false 0) := by decide

/-- V-ER1, V-ER2: the reserved bits come before the opcode. -/
theorem test_decode_rsvd : decode .cmd 0x101 = .reject .rsvdBits ∧ decode .cmd 0x100 = .reject .rsvdBits := by decide

/-- V-ER3 to V-ER6. -/
theorem test_decode_illegal :
    decode .cmd 0x00 = .reject .illegalOpcode ∧ decode .cmd 0xFF = .reject .illegalOpcode ∧
      decode .cmd 0x23 = .reject .illegalOpcode ∧ decode .cmd 0x05 = .reject .illegalOpcode := by decide

/-- 30_encoding R84: bits 2:0 all 0 is no action. -/
theorem test_decode_noAction : decode .rxCtrl 0xFFFFFFF8 = .reject .noAction := by decide

/-- The one check of WellFormed refuses the second form of an ACK and EOS word. -/
theorem test_illFormed_rxEos : (Instr.rxEos true 0).wellFormed = false := by decide

theorem test_wellFormed_rxAck : (Instr.rxAck true 0).wellFormed = true := by decide

/-! ## Commands -/

/-- V-CA4. -/
theorem test_csumClr : sums (exec .csumClr { State.reset with csumA := 0xF0, csumB := 0xC8 }) = some (0x002, 0, 0) := by
  decide

/-- V-CA3. -/
theorem test_csumAcc :
    sums (exec .csumAcc { load [0x64, 0x65] with csumA := 0x27, csumB := 0x4C }) = some (0x002, 0xC8F0, 0xC8F0) := by
  decide

/-- V-CA5: no bytes. -/
theorem test_csumAcc_empty :
    sums (exec .csumAcc { load [] with csumA := 0x27, csumB := 0x4C }) = some (0x002, 0x4C27, 0x4C27) := by decide

/-- V-CS6. -/
theorem test_csumCompute :
    outcome (exec .csumCompute (load abcde)) 3 = some (0x002, 0xC8F0, 2, [some 0xC8, some 0xF0, none]) := by decide

/-- V-CS9: `FF` is 0 modulo 255. -/
theorem test_csumCompute_ff : sums (exec .csumCompute (load [0xFF, 0xFF, 0xFF])) = some (0x002, 0, 0) := by decide

/-- V-CV1 and V-CV2. -/
theorem test_csumVerify :
    sums (exec .csumVerify { loadArgs abcde 0xC8F0 0 with csumA := 0x27, csumB := 0x4C }) = some (0x002, 1, 0xC8F0) ∧
      sums (exec .csumVerify (loadArgs abcde 0xF0C8 0)) = some (0x002, 0, 0xC8F0) := by decide

/-- V-CV4 and V-CV7. -/
theorem test_csumVerify_corners :
    sums (exec .csumVerify (loadArgs [0x00] 0xFFFF 0)) = some (0x002, 0, 0) ∧
      sums (exec .csumVerify (loadArgs abcde 0x1C8F0 0)) = some (0x542, 0, 0) := by decide

/-- V-FR2. -/
theorem test_frameEncode :
    outcome (exec .frameEncode (load [0x15, 0x00])) 9 =
      some (0x002, 0x2A15, 8,
        [some 0xC0, some 0x3E, some 0x00, some 0x02, some 0x15, some 0x00, some 0x2A, some 0x15, none]) := by decide

/-- V-FR6 (the length check comes before any byte is read) and V-FR7. -/
theorem test_frameEncode_stops :
    sums (exec .frameEncode (partly [] 65536)) = some (0x642, 0, 0) ∧
      faultOf (exec .frameEncode (partly [] 3)) = some (.uninitialisedOperand 0) := by decide

/-- V-HP1 and V-HP3. -/
theorem test_hdrPack :
    sums (exec .hdrPack (loadArgs [] 1 5)) = some (0x002, 0x15, 0) ∧
      sums (exec .hdrPack (loadArgs [] 3 0xF)) = some (0x002, 0x3F, 0) := by decide

/-- V-HP7, V-HP8 and V-HP9. -/
theorem test_hdrPack_range :
    sums (exec .hdrPack (loadArgs [] 4 0)) = some (0x542, 0, 0) ∧
      sums (exec .hdrPack (loadArgs [] 0 0x10)) = some (0x542, 0, 0) ∧
      sums (exec .hdrPack (loadArgs [] 0xFFFFFFFF 0)) = some (0x542, 0, 0) := by decide

/-- V-HU1 and V-HU2. -/
theorem test_hdrUnpack :
    sums (exec .hdrUnpack (loadArgs [] 0x15 0)) = some (0x002, 0x00000501, 0) ∧
      sums (exec .hdrUnpack (loadArgs [] 0xFF 0)) = some (0x002, 0x00030F03, 0) := by decide

/-- V-HU7 and V-HU8. -/
theorem test_hdrUnpack_corners :
    sums (exec .hdrUnpack (loadArgs [] 0x43 0)) = some (0x002, 0x00010003, 0) ∧
      sums (exec .hdrUnpack (loadArgs [] 0x100 0)) = some (0x542, 0, 0) := by decide

/-- V-PP2 and V-PP4. -/
theorem test_pktParse :
    outcome (exec .pktParse (load [0x11, 0x02, 0xAA, 0xBB, 0xCC, 0xDD])) 3 =
        some (0x002, 0x02000401, 2, [some 0xCC, some 0xDD, none]) ∧
      outcome (exec .pktParse (load [0x15, 0x03, 0xAA, 0xBB, 0xCC])) 1 = some (0x002, 0x03000501, 0, [none]) :=
  ⟨by decide, by decide⟩

/-- V-PP5, V-PP6 and V-PP11. -/
theorem test_pktParse_stops :
    outcome (exec .pktParse (load [0x15, 0x04, 0xAA, 0xBB, 0xCC])) 1 = some (0x842, 0, 0, [none]) ∧
      outcome (exec .pktParse (load [0x15])) 1 = some (0x742, 0, 0, [none]) ∧
      faultOf (exec .pktParse (partly [] 3)) = some (.uninitialisedOperand 1) :=
  ⟨by decide, by decide, by decide⟩

/-- V-CH1. -/
theorem test_chash : sums (exec .chash State.reset) = some (0x002, 0x11, 0) := by decide +kernel

/-- V-CH2 and V-CH5. -/
theorem test_chash_lengths :
    sums (exec .chash { State.reset with secretLen := 32 }) = some (0x002, 0x17, 0) ∧
      sums (exec .chash { State.reset with secretLen := 15 }) = some (0x442, 0, 0) := by decide +kernel

/-- V-EM4. -/
theorem test_encMac :
    outcome (exec .encMac (load [0x00, 0x01, 0x02, 0x03, 0x04, 0x05, 0x06, 0x07, 0x08, 0x09, 0x0A, 0x0B, 0x0C, 0x0D,
      0x0E, 0x0F])) 19 =
      some (0x002, 0xEA23, 18, [some 0xEA, some 0x23, some 0x50, some 0xC2, some 0x96, some 0xE7, some 0x5F, some 0x2F,
        some 0x85, some 0x95, some 0x26, some 0xBE, some 0x5F, some 0x53, some 0xEB, some 0x97, some 0x29, some 0xA9,
        none]) := by decide +kernel

/-- V-EM1 and V-ER15. -/
theorem test_encMac_corners :
    outcome (exec .encMac (load [])) 3 = some (0x002, 0x464A, 2, [some 0x46, some 0x4A, none]) ∧
      outcome (exec .encMac (sized (load (zeros 16)) 65536 17)) 1 = some (0x942, 0, 0, [none]) :=
  ⟨by decide +kernel, by decide +kernel⟩

/-- V-GB1. -/
theorem test_gtxtBuild :
    outcome (exec .gtxtBuild (loadArgs aliceHi 0x6553F100 5)) 15 =
      some (0x002, 0, 14, [some 0x00, some 0xF1, some 0x53, some 0x65, some 0x00, some 0x41, some 0x6C, some 0x69,
        some 0x63, some 0x65, some 0x3A, some 0x20, some 0x68, some 0x69, none]) := by decide

/-- V-GB3 and V-GB5. -/
theorem test_gtxtBuild_corners :
    outcome (exec .gtxtBuild (loadArgs [0x78] 0xFFFFFFFF 0)) 8 =
        some (0x002, 0, 8,
          [some 0xFF, some 0xFF, some 0xFF, some 0xFF, some 0x00, some 0x3A, some 0x20, some 0x78]) ∧
      outcome (exec .gtxtBuild (loadArgs [0x78] 0 2)) 1 = some (0x542, 0, 0, [none]) :=
  ⟨by decide, by decide⟩

/-- V-GP1. -/
theorem test_gtxtPacket :
    outcome (exec .gtxtPacket (loadArgs aliceHi 0x6553F100 5)) 22 =
      some (0x002, 0, 21, [some 0x15, some 0x00, some 0x11, some 0xD8, some 0x55, some 0x9D, some 0x57, some 0xFB,
        some 0x5A, some 0x44, some 0xDE, some 0xBB, some 0x4B, some 0xDA, some 0x19, some 0x2A, some 0x91, some 0xB7,
        some 0x7E, some 0xD2, some 0x33, none]) := by decide +kernel

/-- V-GP5 and V-ER9: `SECRET_LEN` before `ARG_RANGE`. -/
theorem test_gtxtPacket_checks :
    outcome (exec .gtxtPacket (loadArgs aliceHi 0x6553F100 8)) 1 = some (0x542, 0, 0, [none]) ∧
      outcome (exec .gtxtPacket { loadArgs aliceHi 0 8 with secretLen := 40 }) 1 = some (0x442, 0, 0, [none]) :=
  ⟨by decide, by decide⟩

/-! ## The receive decoder -/

/-- V-RX1: the last byte of a valid frame. -/
theorem test_rxByte_valid :
    rxOutcome (exec (.rxByte 0x15 0) (fed false (frame1.take 7))) 3 =
      some (0x00C, 2, 0x2A152A15, [some 0x15, some 0x00, none]) := by decide

/-- V-RX3, V-RX4 and V-RX9. -/
theorem test_rxByte_errors :
    rxOutcome (exec (.rxByte 0x16 0) (fed false (frame1.take 7))) 1 = some (0x034, 2, 0x2A152A16, [none]) ∧
      rxOutcome (exec (.rxByte 0x3F 0) (fed false [0xC0])) 1 = some (0x024, 0, 0, [none]) ∧
      rxOutcome (exec (.rxByte 0x0A 0) (fed false frame1)) 2 = some (0x10C, 2, 0x2A152A15, [some 0x15, some 0x00]) :=
  ⟨by decide, by decide, by decide⟩

/-- V-RX2, V-RX19b and V-RX24: the empty frame, and `0A` with DSKIP = 1 before and between the magic bytes. -/
theorem test_rxByte_delimiter :
    rxOutcome (exec (.rxByte 0x00 0) (fed true [0x0A, 0xC0, 0x3E, 0x00, 0x00, 0x00])) 1 = some (0x00C, 0, 0, [none]) ∧
      rxOutcome (exec (.rxByte 0x00 0) (fed true [0xC0, 0x0A, 0x3E, 0x00, 0x00, 0x00])) 1 =
        some (0x124, 0, 0, [none]) :=
  ⟨by decide, by decide⟩

/-- V-RX18 and V-RX21. -/
theorem test_rxAck :
    rxOutcome (exec (.rxAck false 0) (fed false frame1)) 1 = some (0x000, 2, 0x2A152A15, [none]) ∧
      rxOutcome (exec (.rxAck false 0) (fed false [0xC0, 0x3E, 0x00, 0x02])) 1 = some (0x002, 2, 0, [none]) :=
  ⟨by decide, by decide⟩

/-- V-RX16: ACK with EOS. -/
theorem test_rxAck_eos :
    rxOutcome (exec (.rxAck true 0) (fed false frame1)) 1 = some (0x215, 2, 0x2A152A15, [none]) := by decide

/-- V-RX5 and V-RX11. -/
theorem test_rxEos :
    rxOutcome (exec (.rxEos false 0) (fed false [0xC0, 0x3E, 0x00, 0x02, 0x15])) 1 = some (0x215, 2, 0, [none]) ∧
      rxOutcome (exec (.rxEos false 0) (fed false frame1)) 2 =
        some (0x20C, 2, 0x2A152A15, [some 0x15, some 0x00]) :=
  ⟨by decide, by decide⟩

/-- V-RX20. -/
theorem test_rxRst :
    rxOutcome (exec (.rxRst true true 0) (fed false [0xC0, 0x3E, 0x00, 0x02])) 1 = some (0x000, 0, 0, [none]) := by decide

/-! ## The bus and reset -/

/-- V-RS9, V-RS13 and V-RS21. -/
theorem test_reset_reads :
    readOutcome (step (reading State.reset 0x024)) = some (some 0x10, 0) ∧
      readOutcome (step (reading State.reset 0x100)) = some (some 0xE987338B, 0) ∧
      (readOutcome (step (reading State.reset 0x10000))).map Prod.snd = some 1 := by
  refine ⟨by decide, by decide, rfl⟩

/-- V-BF1, V-BF2, V-BF3 and V-BF4. -/
theorem test_hazards :
    faultOf (step (writing (busy 1) 0x010 1)) = some (.hazardViolation .operandWrite) ∧
      faultOf (step (writing (busy 1) 0x008 1)) = some (.hazardViolation .cmdWhileBusy) ∧
      faultOf (step (writing (busy 1) 0x10000 0)) = some (.hazardViolation .operandWrite) ∧
      faultOf (step (writing (busy 1) 0x024 16)) = some (.hazardViolation .operandWrite) := by decide

/-- V-BF10, V-BF11 and V-BF12. -/
theorem test_busErrors :
    faultOf (step (reading State.reset 0x002)) = some (.busError 0x002) ∧
      faultOf (step (reading State.reset 0x028)) = some (.busError 0x028) ∧
      faultOf (step (writing State.reset 0x120 0)) = some (.busError 0x120) := by decide

/-- V-BF5 and V-BF14. -/
theorem test_reads :
    readOutcome (step (reading (busy 1) 0x004)) = some (some 0x001, 0) ∧
      readOutcome (step (reading State.reset 0x008)) = some (some 0, 0) := by decide

/-- V-BF7: a soft reset abandons the busy command. -/
theorem test_softReset :
    (nextOf (step (writing { busy 3 with arg0 := 5 } 0x000 1))).map
      (fun t => (t.statusWord, t.arg0, t.secretLen.toNat, t.cuBusy)) = some (0, 0, 16, false) := by decide

/-- P1, accesses 1 and 6: a write to SRC, and a completion step. -/
theorem test_write_src :
    (nextOf (step (writing State.reset 0x10000 0x64636261))).map (fun t => (List.range 5).map (Memory.byteAt t.src)) =
      some [some 0x61, some 0x62, some 0x63, some 0x64, none] := by decide

/-- P6, accesses 3 and 5. -/
theorem test_illegal_words_complete :
    (nextOf (step (busy 0x110))).map State.statusWord = some 0x142 ∧
      (nextOf (step (busy 0x005))).map State.statusWord = some 0x242 := by decide

/-- A placed table word is what the next step runs. -/
theorem test_withFetchWord :
    (nextOf (step (State.reset.withFetchWord 32 0x20))).map (fun t => (t.statusWord, t.inputs)) = some (0x002, []) ∧
      (nextOf (step (State.reset.withFetchWord 32 0x000000C0))).map (fun t => (t.rx.rcnt, t.rx.m0)) = some (1, 0xC0) ∧
      (nextOf (step (State.reset.withFetchWord 8 0x02))).map (fun t => t.rx.statusWord) = some 0x215 := by decide

/-! ## Primitives (V-PR) -/

/-- V-PR2, the first four bytes, and V-PR1, the first four. -/
theorem test_sha256 :
    (sha256 [0x61, 0x62, 0x63]).take 4 = [0xBA, 0x78, 0x16, 0xBF] ∧ (sha256 []).take 4 = [0xE3, 0xB0, 0xC4, 0x42] := by
  decide +kernel

/-- V-PR5, the first four bytes. -/
theorem test_hmac :
    (hmacSha256 [0x4A, 0x65, 0x66, 0x65] [0x77, 0x68, 0x61, 0x74, 0x20, 0x64, 0x6F, 0x20, 0x79, 0x61, 0x20, 0x77, 0x61,
      0x6E, 0x74, 0x20, 0x66, 0x6F, 0x72, 0x20, 0x6E, 0x6F, 0x74, 0x68, 0x69, 0x6E, 0x67, 0x3F]).take 4 =
      [0x5B, 0xDC, 0xC1, 0x46] := by decide +kernel

/-- V-PR8, the first four bytes. -/
theorem test_aes :
    (aes128 [0x8B, 0x33, 0x87, 0xE9, 0xC5, 0xCD, 0xEA, 0x6A, 0xC9, 0xE5, 0xED, 0xBA, 0xA1, 0x15, 0xCD, 0x72] (zeros 16)).take
      4 = [0x43, 0x2E, 0x02, 0x12] := by decide +kernel

/-! ## Witnesses: for each statement with hypotheses, states and operands that meet all of them, one per clause, at the ends
of a clause's range -/

/-- A state whose buffers just hold, or just do not hold, what a command needs. -/
def tiny (srcSize dstSize : Nat) (bs : List Byte) (srcLen : BitVec 17) : State :=
  sized (partly bs srcLen) srcSize dstSize

/-- A secret length a command accepts, or not. -/
def withSecretLen (s : State) (n : BitVec 6) : State :=
  { s with secretLen := n }

def withArgs (s : State) (arg0 arg1 : Word) : State :=
  { s with arg0 := arg0, arg1 := arg1 }

theorem witness_DecodeInvertsEncode :
    (Instr.rxRst true true 0x1FFFFFFF).wellFormed = true ∧ (Instr.rxEos false 0).wellFormed = true := by decide

theorem witness_EncodeInvertsDecode :
    decode .rxCtrl 0x3 = .instr (.rxAck true 0) ∧ decode .cmd 0x41 = .instr .gtxtPacket ∧
      decode .rxData 0xFFFFFFFF = .instr (.rxByte 0xFF 0xFFFFFF) := by decide

theorem witness_IllegalCommandWordsCompleteWithError :
    rsvdOf (busy 0x100).cuCmd ≠ 0 ∧ rsvdOf (busy 0x80000001).cuCmd ≠ 0 ∧
      (rsvdOf (busy 0x00).cuCmd = 0 ∧
        opcodeOf (busy 0x00).cuCmd ∉ [0x01, 0x02, 0x03, 0x04, 0x10, 0x20, 0x21, 0x22, 0x30, 0x31, 0x40, 0x41]) ∧
      (rsvdOf (busy 0xFF).cuCmd = 0 ∧
        opcodeOf (busy 0xFF).cuCmd ∉ [0x01, 0x02, 0x03, 0x04, 0x10, 0x20, 0x21, 0x22, 0x30, 0x31, 0x40, 0x41]) := by
  refine ⟨by decide, by decide, ⟨by decide, by decide⟩, ⟨by decide, by decide⟩⟩

theorem witness_StepRunsLatchedCommand :
    (busy 0x41).cuBusy = true ∧ decode .cmd (busy 0x41).cuCmd = .instr .gtxtPacket ∧ (busy 0x41).inputs = [] ∧
      (withInputs (busy 0x41) [.cuTurn]).inputs = [.cuTurn] := by decide

theorem witness_StepRunsWrittenRxWord :
    State.reset.cfg.base % 4 = 0 ∧
      ((writing State.reset 0x40 0x4).inputs = [.write .word (State.reset.cfg.base + 0x40) 0x4] ∧
        decode .rxCtrl 0x4 = .instr (.rxRst false false 0)) ∧
      ((writing (busy 1) 0x44 0xC0).inputs = [.write .word ((busy 1).cfg.base + 0x44) 0xC0] ∧
        decode .rxData 0xC0 = .instr (.rxByte 0xC0 0)) ∧
      (BitVec.extractLsb' 0 3 (0xFFFFFFF8 : Word) = 0) := by decide

theorem witness_CmdWriteStartsCommand :
    (writing State.reset 0x008 0x110).cfg.base % 4 = 0 ∧ (writing State.reset 0x008 0x110).cuBusy = false ∧
      (writing State.reset 0x008 0x110).inputs = [.write .word (State.reset.cfg.base + 0x008) 0x110] := by decide

theorem witness_BusyCommandCompletesOrNamesUndefinedByte :
    ((busy 0x01).cuBusy = true ∧ (busy 0x01).inputs = [] ∧ (nextOf (step (busy 0x01))).isSome = true) ∧
      faultOf (step { busy 0x22 with srcLen := 3 }) = some (.uninitialisedOperand 1) := by decide

/-- The faults of its second part: `CSUM_ACC` at its first undefined byte, `PKT_PARSE` at SRC[1], at SRC[0] and in the payload. -/
theorem witness_BusyCommandCompletesOrNamesUndefinedByte_faults :
    (faultOf (exec .csumAcc (partly [1] 3)) = some (.uninitialisedOperand 1) ∧
        (partly [1] 3).FirstUndefined 0 (partly [1] 3).srcLen.toNat 1) ∧
      faultOf (exec .pktParse (partly [0x15] 2)) = some (.uninitialisedOperand 1) ∧
      faultOf (exec .pktParse { State.reset with src := [(1, 0x00)], srcLen := 2 }) = some (.uninitialisedOperand 0) ∧
      faultOf (exec .pktParse (partly [0x15, 0x00, 0xAA] 4)) = some (.uninitialisedOperand 3) :=
  ⟨by decide, by decide, by decide, by decide⟩

theorem witness_OperandWriteWhileBusyFaults :
    (busy 1).cfg.base % 4 = 0 ∧ (busy 1).cfg.srcSize ≤ 0x10000 ∧ (busy 1).cuBusy = true ∧
      ∀ off ∈ [0x00C, 0x024, 0x100, 0x11C, 0x10000, 0x1FFFC], off % 4 = 0 ∧
        (off ∈ [0x00C, 0x010, 0x014, 0x024] ∨ (0x100 ≤ off ∧ off < 0x120) ∨
          (0x10000 ≤ off ∧ off + 4 ≤ 0x10000 + (busy 1).cfg.srcSize)) ∧
        (writing (busy 1) off 0).inputs = [.write .word ((busy 1).cfg.base + off) 0] := by decide

theorem witness_CmdWriteWhileBusyFaults :
    (busy 1).cfg.base % 4 = 0 ∧ (busy 1).cuBusy = true ∧
      (writing (busy 1) 0x008 0).inputs = [.write .word ((busy 1).cfg.base + 0x008) 0] := by decide

theorem witness_NarrowOrMisalignedAccessFaults :
    (Width.byte ≠ .word ∧ (withInputs State.reset [.read .byte 0]).inputs = [.read .byte 0]) ∧
      (Width.half ≠ .word ∧ (withInputs State.reset [.write .half 4 1]).inputs = [.write .half 4 1] ∧
        (withInputs State.reset [.write .half 4 1]).cuBusy = false) ∧
      ((0x003 : Nat) % 4 ≠ 0 ∧ (reading State.reset 0x003).inputs = [.read .word 0x003]) := by decide

/-- The unmapped ranges at both ends, with small buffers so that the gaps behind SRC and DST are not empty. -/
theorem witness_UnmappedFaultsAndReadOnlyWindowsIgnoreWrites :
    (tiny 16 8 [] 0).cfg.base % 4 = 0 ∧ (tiny 16 8 [] 0).cfg.Legal ∧ (tiny 16 8 [] 0).cuBusy = false ∧
      (∀ off ∈ [0x028, 0x03C, 0x054, 0x0FC, 0x120, 0xFFFC, 0x10010, 0x1FFFC, 0x20008, 0x3FFFC, 0x50000, 0x100000],
        off % 4 = 0 ∧
          ((0x028 ≤ off ∧ off < 0x040) ∨ (0x054 ≤ off ∧ off < 0x100) ∨ (0x120 ≤ off ∧ off < 0x10000) ∨
            (0x10000 + (tiny 16 8 [] 0).cfg.srcSize ≤ off ∧ off < 0x20000) ∨
            (0x20000 + (tiny 16 8 [] 0).cfg.dstSize ≤ off ∧ off < 0x40000) ∨
            0x40000 + (tiny 16 8 [] 0).cfg.rxbufSize ≤ off) ∧
          faultOf (step (reading (tiny 16 8 [] 0) off)) = some (.busError off) ∧
          faultOf (step (writing (tiny 16 8 [] 0) off 1)) = some (.busError off)) ∧
      (∀ off ∈ [0x20000, 0x20004, 0x40000, 0x4FFFC], off % 4 = 0 ∧
        ((0x20000 ≤ off ∧ off + 4 ≤ 0x20000 + (tiny 16 8 [] 0).cfg.dstSize) ∨
          (0x40000 ≤ off ∧ off + 4 ≤ 0x40000 + (tiny 16 8 [] 0).cfg.rxbufSize)) ∧
        (nextOf (step (writing (tiny 16 8 [] 0) off 1))).isSome = true) := by
  refine ⟨by decide, by decide, rfl, by decide +kernel, by decide +kernel⟩

theorem witness_RegisterAccessConventions :
    State.reset.cfg.base % 4 = 0 ∧ State.reset.cuBusy = false ∧ State.reset.cfg.Legal ∧
      (∀ off ∈ [0x004, 0x018, 0x01C, 0x020, 0x048, 0x04C, 0x050, 0x20000, 0x3FFFC, 0x40000, 0x4FFFC],
        (writing State.reset off 1).inputs = [.write .word (State.reset.cfg.base + off) 1]) ∧
      (∀ off ∈ [0x008, 0x040, 0x044, 0x000, 0x004, 0x00C, 0x018, 0x024, 0x048, 0x04C, 0x050, 0x01C, 0x020],
        (reading State.reset off).inputs = [.read .word (State.reset.cfg.base + off)]) := by decide

/-- The partial last word of an odd-sized DST, which is in the range of its ignored writes. -/
theorem witness_RegisterAccessConventions_odd :
    (tiny 0 6 [] 0).cfg.Legal ∧ 0x20004 % 4 = 0 ∧ 0x20004 < 0x20000 + (tiny 0 6 [] 0).cfg.dstSize ∧
      (nextOf (step (writing (tiny 0 6 [] 0) 0x20004 1))).isSome = true := by decide

/-- The codes of a failed command and of a closed stream (V-ER5, V-RX5). -/
theorem witness_RegisterAccessConventions_codes :
    (let s := reading (State.reset.raiseError .illegalOpcode) 0x004
     s.ecode = .encodingError ∧ s.esub = .illegalOpcode ∧ s.inputs = [.read .word (s.cfg.base + 0x004)] ∧
       readOutcome (step s) = some (some 0x242, 0)) ∧
      (let s := reading { State.reset with rx := (fed false [0xC0, 0x3E, 0x00, 0x02, 0x15]).rx.eos } 0x048
       s.rx.state = .closed ∧ s.rx.ecode = .truncated ∧ s.inputs = [.read .word (s.cfg.base + 0x048)] ∧
         readOutcome (step s) = some (some 0x215, 0)) := by
  refine ⟨by decide, by decide⟩

theorem witness_OperandRegistersHoldWhatIsWritten :
    State.reset.cfg.base % 4 = 0 ∧ State.reset.cuBusy = false ∧
      ∀ off ∈ [0x00C, 0x010, 0x014, 0x024],
        (withInputs State.reset [.write .word off 0xFFFFFFFF, .read .word off]).inputs =
          [.write .word (State.reset.cfg.base + off) 0xFFFFFFFF, .read .word (State.reset.cfg.base + off)] := by decide

theorem witness_WindowWordsAreLittleEndian :
    State.reset.cfg.Legal ∧ State.reset.cuBusy = false ∧
      (65532 % 4 = 0 ∧ 65532 + 4 ≤ State.reset.cfg.srcSize ∧
        (writing State.reset 0x1FFFC 1).inputs = [.write .word (State.reset.cfg.base + 0x10000 + 65532) 1]) ∧
      (28 % 4 = 0 ∧ 28 + 4 ≤ 32 ∧
        (writing State.reset 0x11C 1).inputs = [.write .word (State.reset.cfg.base + 0x100 + 28) 1]) := by decide

/-- A word of defined bytes in each window, a result's last one in RXBUF. -/
theorem witness_WindowWordsAreLittleEndian_reads :
    (let s := reading (load abcde) 0x10000
     s.cfg.Legal ∧ s.cuBusy = false ∧ 0 % 4 = 0 ∧ 0 + 4 ≤ s.cfg.srcSize ∧
       s.inputs = [.read .word (s.cfg.base + 0x10000 + 0)] ∧
       (List.range 4).map (Memory.byteAt s.src) = [some 0x61, some 0x62, some 0x63, some 0x64]) ∧
      (let s := reading { State.reset with dst := Memory.putBytes [] 0 abcde } 0x20000
       s.cfg.Legal ∧ s.cuBusy = false ∧ 0 + 4 ≤ s.cfg.dstSize ∧ s.inputs = [.read .word (s.cfg.base + 0x20000 + 0)] ∧
         (List.range 4).map (Memory.byteAt s.dst) = [some 0x61, some 0x62, some 0x63, some 0x64]) ∧
      (let s := reading (fed false [0xC0, 0x3E, 0x00, 0x04, 0, 0, 0, 0, 0, 0]) 0x40000
       s.cfg.Legal ∧ s.cuBusy = false ∧ s.rx.valid = true ∧ 0 + 4 ≤ s.rx.len.toNat ∧
         s.inputs = [.read .word (s.cfg.base + 0x40000 + 0)] ∧
         (List.range 4).map (Memory.byteAt s.rx.buf) = [some 0, some 0, some 0, some 0]) ∧
      (let s := reading State.reset 0x11C
       s.cfg.Legal ∧ s.cuBusy = false ∧ 28 + 4 ≤ 32 ∧ s.inputs = [.read .word (s.cfg.base + 0x100 + 28)] ∧
         (s.secret[28]?, s.secret[28 + 1]?, s.secret[28 + 2]?, s.secret[28 + 3]?) =
           (some 0, some 0, some 0, some 0)) := by
  refine ⟨by decide, by decide, by decide, by decide⟩

theorem witness_UndefinedBytesReadAsFreeValues :
    (let s := reading (load abcde) 0x10004
     s.cfg.Legal ∧ s.cuBusy = false ∧ 4 % 4 = 0 ∧ 4 < s.cfg.srcSize ∧
       s.inputs = [.read .word (s.cfg.base + 0x10000 + 4)] ∧ 1 < 4 ∧ Memory.byteAt s.src (4 + 1) = none) ∧
      (let s := reading { State.reset with dst := Memory.putBytes [] 0 [0xC8, 0xF0] } 0x20000
       s.cfg.Legal ∧ s.cuBusy = false ∧ 0 % 4 = 0 ∧ 0 < s.cfg.dstSize ∧
         s.inputs = [.read .word (s.cfg.base + 0x20000 + 0)] ∧ 2 < 4 ∧ Memory.byteAt s.dst (0 + 2) = none) ∧
      (let s := reading (tiny 6 6 [] 0) 0x20004
       s.cfg.Legal ∧ s.cuBusy = false ∧ 4 % 4 = 0 ∧ 4 < s.cfg.dstSize ∧ 4 < s.cfg.srcSize ∧
         s.inputs = [.read .word (s.cfg.base + 0x20000 + 4)] ∧ 3 < 4 ∧ Memory.byteAt s.dst (4 + 3) = none) := by
  refine ⟨by decide, by decide, by decide⟩

/-- RXBUF without a valid result, behind one, and a word that straddles the end of one. -/
theorem witness_UndefinedBytesReadAsFreeValues_rxbuf :
    (let s := reading (fed false [0xC0]) 0x40000
     s.cfg.Legal ∧ s.cuBusy = false ∧ 0 < s.cfg.rxbufSize ∧ s.inputs = [.read .word (s.cfg.base + 0x40000 + 0)] ∧
       s.rx.valid = false) ∧
      (let s := reading (fed false frame1) 0x40004
       s.cfg.Legal ∧ s.cuBusy = false ∧ 4 < s.cfg.rxbufSize ∧ s.inputs = [.read .word (s.cfg.base + 0x40000 + 4)] ∧
         s.rx.valid = true ∧ s.rx.len.toNat ≤ 4) ∧
      (let s := reading (fed false frame1) 0x40000
       s.cfg.Legal ∧ s.cuBusy = false ∧ 0 < s.cfg.rxbufSize ∧ s.inputs = [.read .word (s.cfg.base + 0x40000 + 0)] ∧
         s.rx.valid = true ∧ 0 < s.rx.len.toNat ∧ s.rx.len.toNat < 0 + 4 ∧
         Memory.byteAt s.rx.buf (0 + 1) = some 0x00 ∧ s.rx.len.toNat ≤ 0 + 2) := by
  refine ⟨by decide, by decide, by decide⟩

/-- A held valid result meets the decoder's invariant. -/
theorem witness_UndefinedBytesReadAsFreeValues_inv :
    (fed false frame1).rx.Inv ∧ (fed false frame1).rx.valid = true ∧ 1 < (fed false frame1).rx.len.toNat := by
  refine ⟨⟨by decide, by decide, ?_, ?_, by decide, ?_⟩, by decide, by decide⟩
  · exact (rfl : (fed false frame1).rx.rcnt = 0)
  · exact Or.inl ⟨rfl, rfl⟩
  · exact ⟨by decide, fun _ => by decide⟩

theorem witness_BusyAccesses :
    (busy 1).cfg.Legal ∧ (busy 1).StatusFits ∧ (busy 1).cuBusy = true ∧
      ∀ off ∈ [0x018, 0x020, 0x20000, 0x3FFFC, 0x004, 0x000, 0x050, 0x100, 0x11C, 0x10000, 0x1FFFC, 0x40000, 0x4FFFC],
        off % 4 = 0 ∧ (reading (busy 1) off).inputs = [.read .word ((busy 1).cfg.base + off)] := by
  refine ⟨by decide, ⟨by decide, by decide, by decide⟩, by decide, by decide⟩

/-- Busy writes with a SRC of 6 bytes: a narrow one, a misaligned one, both ends behind SRC, and the partial last word. -/
theorem witness_BusyAccesses_writes :
    (let s := sized (busy 1) 6 8
     s.cfg.Legal ∧ s.cuBusy = true ∧
       (Width.half ≠ .word ∧ faultOf (step (withInputs s [.write .half 0x00C 1])) = some (.busError 0x00C)) ∧
       (0x00A % 4 ≠ 0 ∧ faultOf (step (writing s 0x00A 1)) = some (.busError 0x00A)) ∧
       (∀ off ∈ [0x10008, 0x1FFFC], off % 4 = 0 ∧ 0x10000 + s.cfg.srcSize ≤ off ∧ off < 0x20000 ∧
         faultOf (step (writing s off 1)) = some (.busError off)) ∧
       (0x10004 % 4 = 0 ∧ 0x10004 < 0x10000 + s.cfg.srcSize ∧ 0x10000 + s.cfg.srcSize < 0x10004 + 4 ∧
         faultOf (step (writing s 0x10004 1)) = some (.hazardViolation .operandWrite))) := by
  refine ⟨by decide, by decide, by decide, by decide, by decide +kernel, by decide⟩

theorem witness_ReadsHaveNoSideEffect :
    (reading State.reset 0x004).inputs = [.read .word 0x004] ∧ (nextOf (step (reading State.reset 0x004))).isSome = true := by
  decide

theorem witness_PowerOnResetState : (withInputs (busy 1) [.powerOn]).inputs = [.powerOn] := by decide

theorem witness_CtrlWriteResetsOrSetsDskip :
    (busy 1).cfg.base % 4 = 0 ∧ (writing (busy 1) 0x000 3).inputs = [.write .word ((busy 1).cfg.base + 0x000) 3] ∧
      (3 : Word).getLsbD 0 = true ∧ (2 : Word).getLsbD 0 = false := by decide

theorem witness_CommandEncoding :
    opcodeOf (busy 0x101).cuCmd = 0x01 ∧ rsvdOf (busy 0x101).cuCmd ≠ 0 ∧ opcodeOf (busy 0x80000041).cuCmd = 0x41 ∧
      rsvdOf (busy 0x80000041).cuCmd ≠ 0 := by decide

/-- The hypotheses every command over `SRC[0..SRC_LEN)` shares: no bytes, a full buffer, one byte too many, and the last
byte undefined. -/
theorem witness_src :
    (tiny 2 8 [] 0).SrcReady ∧ (tiny 2 8 [1, 2] 2).SrcReady ∧
      (tiny 2 8 [1, 2] 3).cfg.srcSize < (tiny 2 8 [1, 2] 3).srcLen.toNat ∧
      ((tiny 3 8 [1, 2] 3).srcLen.toNat ≤ (tiny 3 8 [1, 2] 3).cfg.srcSize ∧
        ¬ (tiny 3 8 [1, 2] 3).SrcDefined 0 (tiny 3 8 [1, 2] 3).srcLen.toNat) := by decide

theorem witness_CsumAccFoldsSrcIntoAccumulators :
    (tiny 2 0 [1, 2] 2).SrcReady ∧ (tiny 2 0 [1, 2] 3).cfg.srcSize < (tiny 2 0 [1, 2] 3).srcLen.toNat ∧
      ((tiny 3 0 [] 3).srcLen.toNat ≤ (tiny 3 0 [] 3).cfg.srcSize ∧
        ¬ (tiny 3 0 [] 3).SrcDefined 0 (tiny 3 0 [] 3).srcLen.toNat) := by decide

theorem witness_CsumComputeWritesChecksum :
    ((tiny 2 2 [1, 2] 2).SrcReady ∧ 2 ≤ (tiny 2 2 [1, 2] 2).cfg.dstSize) ∧
      ((tiny 2 1 [1, 2] 2).srcLen.toNat ≤ (tiny 2 1 [1, 2] 2).cfg.srcSize ∧ (tiny 2 1 [1, 2] 2).cfg.dstSize < 2) ∧
      ((tiny 3 2 [1, 2] 3).srcLen.toNat ≤ (tiny 3 2 [1, 2] 3).cfg.srcSize ∧ 2 ≤ (tiny 3 2 [1, 2] 3).cfg.dstSize ∧
        ¬ (tiny 3 2 [1, 2] 3).SrcDefined 0 (tiny 3 2 [1, 2] 3).srcLen.toNat) := by decide

theorem witness_CsumVerifyComparesChecksum :
    (let s := withArgs (tiny 2 0 [1, 2] 2) 0xFFFF 0
     s.SrcReady ∧ s.arg0.toNat < 0x10000) ∧
      (tiny 2 0 [1, 2] 3).cfg.srcSize < (tiny 2 0 [1, 2] 3).srcLen.toNat ∧
      (let s := withArgs (tiny 2 0 [] 2) 0x10000 0
       s.srcLen.toNat ≤ s.cfg.srcSize ∧ 0x10000 ≤ s.arg0.toNat) ∧
      (let s := withArgs (tiny 3 0 [1] 3) 0xFFFF 0
       s.srcLen.toNat ≤ s.cfg.srcSize ∧ s.arg0.toNat < 0x10000 ∧ ¬ s.SrcDefined 0 s.srcLen.toNat) := by decide

/-- `"abc"` then `"de"` against `"abcde"` (V-CA2, V-CA3, V-CS6). -/
theorem witness_RunningSumEqualsOneShot :
    (let u := load [0x61, 0x62, 0x63]
     u.csumA = 0 ∧ u.csumB = 0 ∧ u.SrcReady ∧
       (nextOf (exec .csumAcc u)).map (fun t => (t.csumA, t.csumB)) = some (0x27, 0x4C)) ∧
      (let v := { load [0x64, 0x65] with csumA := 0x27, csumB := 0x4C }
       v.SrcReady ∧ (nextOf (exec .csumAcc v)).isSome = true) ∧
      (let w := load abcde
       w.SrcReady ∧ 2 ≤ w.cfg.dstSize ∧ (nextOf (exec .csumCompute w)).isSome = true ∧
         w.srcData = (load [0x61, 0x62, 0x63]).srcData ++ (load [0x64, 0x65]).srcData) := by
  refine ⟨by decide, by decide, by decide⟩

theorem witness_ChecksumClosedFormAndDetection : 4 < abcde.length ∧ 0 < [(0x00 : Byte), 0x01].length := by decide

theorem witness_VerifyOfComputeIsTrue :
    (load abcde).SrcReady ∧ 2 ≤ (load abcde).cfg.dstSize ∧
      sums (exec .csumCompute (load abcde)) = some (0x002, 0xC8F0, 0xC8F0) ∧
      (loadArgs abcde 0xC8F0 0).cfg = (load abcde).cfg ∧ (loadArgs abcde 0xC8F0 0).srcLen = (load abcde).srcLen ∧
      (loadArgs abcde 0xC8F0 0).src = (load abcde).src ∧ (loadArgs abcde 0xC8F0 0).arg0 = 0xC8F0 := by decide

theorem witness_FrameEncodeWritesFrame :
    (let s := tiny 2 8 [1, 2] 2
     s.SrcReady ∧ s.srcLen.toNat ≤ 65535 ∧ s.srcLen.toNat + 6 ≤ s.cfg.dstSize) ∧
      (tiny 2 8 [] 3).cfg.srcSize < (tiny 2 8 [] 3).srcLen.toNat ∧
      (let s := tiny 65536 8 [] 65536
       s.srcLen.toNat ≤ s.cfg.srcSize ∧ 65535 < s.srcLen.toNat) ∧
      (let s := tiny 65536 65540 [] 65535
       s.srcLen.toNat ≤ s.cfg.srcSize ∧ s.srcLen.toNat ≤ 65535 ∧ s.cfg.dstSize < s.srcLen.toNat + 6) ∧
      (let s := tiny 3 9 [1] 3
       s.srcLen.toNat ≤ s.cfg.srcSize ∧ s.srcLen.toNat ≤ 65535 ∧ s.srcLen.toNat + 6 ≤ s.cfg.dstSize ∧
         ¬ s.SrcDefined 0 s.srcLen.toNat) := by decide

theorem witness_RxByteInMagic :
    ((fed true []).rx.state = .magic ∧ (fed true []).rx.rcnt = 0) ∧
      ((fed true [0xC0]).rx.state = .magic ∧ (fed true [0xC0]).rx.rcnt = 1) := by decide

theorem witness_RxByteInLength :
    ((fed false [0xC0, 0x3E]).rx.state = .length ∧ (fed false [0xC0, 0x3E]).rx.rcnt = 0) ∧
      ((fed false [0xC0, 0x3E, 0x00]).rx.state = .length ∧ (fed false [0xC0, 0x3E, 0x00]).rx.rcnt = 1) := by decide

theorem witness_RxByteInBody :
    ((fed false (frame1.take 4)).rx.state = .body ∧
        (fed false (frame1.take 4)).rx.rcnt < (fed false (frame1.take 4)).rx.len.toNat) ∧
      ((fed false (frame1.take 5)).rx.state = .body ∧
        (fed false (frame1.take 5)).rx.rcnt + 1 = (fed false (frame1.take 5)).rx.len.toNat) ∧
      (fed false (frame1.take 5)).cfg.Legal := by decide

theorem witness_RxByteInCsum :
    ((fed false (frame1.take 6)).rx.state = .csum ∧ (fed false (frame1.take 6)).rx.rcnt = 0) ∧
      ((fed false (frame1.take 7)).rx.state = .csum ∧ (fed false (frame1.take 7)).rx.rcnt = 1 ∧
        (fed false (frame1.take 7)).rx.c0 = (fed false (frame1.take 7)).rx.rb ∧ 0x15 = (fed false (frame1.take 7)).rx.ra) := by
  decide

/-- A decoder between the two checksum bytes meets the invariant, with either first byte. -/
theorem witness_RxByteInCsum_inv :
    (fed false (frame1.take 7)).rx.Inv ∧ (fed false [0xC0, 0x3E, 0x00, 0x01, 0x00, 0xFF]).rx.Inv ∧
      (fed false [0xC0, 0x3E, 0x00, 0x01, 0x00, 0xFF]).rx.c0 = 0xFF := by
  refine ⟨⟨by decide, by decide, ?_, ?_, by decide, ?_⟩, ⟨by decide, by decide, ?_, ?_, by decide, ?_⟩, by decide⟩
  · exact (by decide : 1 ≤ 1)
  · exact ⟨rfl, rfl, rfl, rfl⟩
  · exact ⟨fun _ => by decide, fun h => nomatch h⟩
  · exact (by decide : 1 ≤ 1)
  · exact ⟨rfl, rfl, rfl, rfl⟩
  · exact ⟨fun _ => by decide, fun h => nomatch h⟩

theorem witness_RunningSumEqualsOneShot_decoder :
    (fed false (frame1.take 7)).rx.Inv ∧ (fed false (frame1.take 7)).rx.state = .csum :=
  ⟨witness_RxByteInCsum_inv.1, by decide⟩

theorem witness_RxByteInHoldOrClosedIsDropped :
    (fed false frame1).rx.state = .hold ∧ (nextOf (exec (.rxEos false 0) State.reset)).map (·.rx.state) = some .closed := by
  decide

theorem witness_RxEosTruncatesOrMarks :
    ((fed false [0xC0]).rx.state ≠ .hold ∧ (fed false [0xC0]).rx.state ≠ .closed) ∧
      (fed false frame1).rx.state = .hold := by decide

/-- A closed decoder that an input steps on. -/
theorem witness_RxEosTruncatesOrMarks_closed :
    (let s := writing { State.reset with rx := Rx.reset.eos } 0x44 0xC0
     s.rx.state = .closed ∧ (nextOf (step s)).map (·.rx.state) = some .closed) ∧
      (let s := writing { State.reset with rx := Rx.reset.eos } 0x40 0x4
       s.rx.state = .closed ∧ (nextOf (step s)).map (·.rx.state) = some .magic) := by decide

theorem witness_RxAckReleasesHeldResult :
    ((fed false frame1).rx.state = .hold ∧ (fed false frame1).rx.eosf = false) ∧
      ((nextOf (exec (.rxEos false 0) (fed false frame1))).map (fun t => (t.rx.state, t.rx.eosf)) = some (.hold, true)) ∧
      (fed false [0xC0]).rx.state ≠ .hold := by decide

theorem witness_RxCtrlBitsTogether : (fed false frame1).rx.state = .hold := by decide

/-- The frame of the packet `15 00` with either DSKIP. -/
theorem witness_DecodeOfEncodedFrameIsPacket :
    [(0x15 : Byte), 0x00].length ≤ 65535 ∧ State.reset.cfg.base % 4 = 0 ∧ (fed true []).rx.state = .magic ∧
      (fed true []).rx.rcnt = 0 ∧
      (withInputs (fed true []) (feedInputs (fed true []).cfg frame1)).inputs =
        feedInputs (fed true []).cfg (frameEncode [0x15, 0x00]) ++ [] := by decide

/-- V-RX6: `00 15` changed to `FF 15`; and to `01 15`, a detected change. -/
theorem witness_CorruptedBodyByteDetectedButForZeroAndFF :
    0 < [(0x00 : Byte), 0x15].length ∧ [(0x00 : Byte), 0x15].length ≤ 65535 ∧ (fed false []).cfg.base % 4 = 0 ∧
      (fed false []).rx.state = .magic ∧ (fed false []).rx.rcnt = 0 ∧
      ((0xFF : Byte) ≠ 0x00 ∧
        (withInputs (fed false []) (feedInputs Config.default [0xC0, 0x3E, 0x00, 0x02, 0xFF, 0x15, 0x15, 0x15])).inputs =
          feedInputs (fed false []).cfg ((frameEncode [0x00, 0x15]).set (4 + 0) 0xFF) ++ []) ∧
      ((0x01 : Byte) ≠ 0x00 ∧
        (withInputs (fed false []) (feedInputs Config.default [0xC0, 0x3E, 0x00, 0x02, 0x01, 0x15, 0x15, 0x15])).inputs =
          feedInputs (fed false []).cfg ((frameEncode [0x00, 0x15]).set (4 + 0) 0x01) ++ []) := by decide

theorem witness_HdrPackPacksRouteAndType :
    ((loadArgs [] 3 15).arg0.toNat ≤ 3 ∧ (loadArgs [] 3 15).arg1.toNat ≤ 15) ∧ 3 < (loadArgs [] 4 15).arg0.toNat ∧
      15 < (loadArgs [] 3 16).arg1.toNat := by decide

theorem witness_HdrUnpackSplitsHeader :
    (loadArgs [] 0xFF 0).arg0.toNat < 256 ∧ 256 ≤ (loadArgs [] 0x100 0).arg0.toNat := by decide

theorem witness_PktParseSplitsPacket :
    (let s := tiny 5 1 [0x15, 0x02, 0xAA, 0xBB, 0xCC] 5
     s.srcLen.toNat ≤ s.cfg.srcSize ∧ 2 ≤ s.srcLen.toNat ∧ Memory.byteAt s.src 0 = some 0x15 ∧
       Memory.byteAt s.src 1 = some 0x02 ∧ 2 + 2 ≤ s.srcLen.toNat ∧ s.srcLen.toNat - 2 - 2 ≤ s.cfg.dstSize ∧
       s.SrcDefined (2 + 2) s.srcLen.toNat) ∧
      (let s := tiny 5 0 [0x15, 0x04] 5
       s.srcLen.toNat ≤ s.cfg.srcSize ∧ 2 ≤ s.srcLen.toNat ∧ Memory.byteAt s.src 1 = some 0x04 ∧
         s.srcLen.toNat < 4 + 2) ∧
      (let s := tiny 5 0 [0x15, 0x02] 5
       s.srcLen.toNat ≤ s.cfg.srcSize ∧ 2 ≤ s.srcLen.toNat ∧ Memory.byteAt s.src 1 = some 0x02 ∧
         2 + 2 ≤ s.srcLen.toNat ∧ s.cfg.dstSize < s.srcLen.toNat - 2 - 2) := by decide

theorem witness_PktParseSplitsPacket_stops :
    (let s := tiny 2 0 [0x15] 2
     s.srcLen.toNat ≤ s.cfg.srcSize ∧ 2 ≤ s.srcLen.toNat ∧ Memory.byteAt s.src 1 = none) ∧
      (let s := { tiny 2 0 [] 2 with src := [(1, 0x00)] }
       s.srcLen.toNat ≤ s.cfg.srcSize ∧ 2 ≤ s.srcLen.toNat ∧ Memory.byteAt s.src 1 = some 0x00 ∧
         0 + 2 ≤ s.srcLen.toNat ∧ s.srcLen.toNat - 2 - 0 ≤ s.cfg.dstSize ∧ Memory.byteAt s.src 0 = none) ∧
      (let s := tiny 5 1 [0x15, 0x02] 5
       s.srcLen.toNat ≤ s.cfg.srcSize ∧ 2 ≤ s.srcLen.toNat ∧ Memory.byteAt s.src 1 = some 0x02 ∧
         2 + 2 ≤ s.srcLen.toNat ∧ s.srcLen.toNat - 2 - 2 ≤ s.cfg.dstSize ∧ ¬ s.SrcDefined (2 + 2) s.srcLen.toNat) ∧
      (tiny 2 0 [] 3).cfg.srcSize < (tiny 2 0 [] 3).srcLen.toNat ∧
      ((tiny 2 0 [] 1).srcLen.toNat ≤ (tiny 2 0 [] 1).cfg.srcSize ∧ (tiny 2 0 [] 1).srcLen.toNat < 2) := by decide

theorem witness_ChashHashesSecret :
    (withSecretLen State.reset 16).SecretLegal ∧ (withSecretLen State.reset 32).SecretLegal ∧
      ¬ (withSecretLen State.reset 15).SecretLegal ∧ ¬ (withSecretLen State.reset 33).SecretLegal := by decide

theorem witness_EncMacWritesMacAndCiphertext :
    (let s := tiny 1 18 [1] 1
     s.SrcReady ∧ s.SecretLegal ∧ 16 ≤ s.secretLen.toNat ∧ 2 + ceil16 s.srcLen.toNat ≤ s.cfg.dstSize) ∧
      (tiny 1 18 [1] 2).cfg.srcSize < (tiny 1 18 [1] 2).srcLen.toNat ∧
      (let s := withSecretLen (tiny 1 18 [1] 1) 33
       s.srcLen.toNat ≤ s.cfg.srcSize ∧ ¬ s.SecretLegal) ∧
      (let s := tiny 1 17 [1] 1
       s.srcLen.toNat ≤ s.cfg.srcSize ∧ s.SecretLegal ∧ s.cfg.dstSize < 2 + ceil16 s.srcLen.toNat) ∧
      (let s := tiny 2 18 [1] 2
       s.srcLen.toNat ≤ s.cfg.srcSize ∧ s.SecretLegal ∧ 2 + ceil16 s.srcLen.toNat ≤ s.cfg.dstSize ∧
         ¬ s.SrcDefined 0 s.srcLen.toNat) := by decide

theorem witness_CiphertextIsBlockwiseAes : 16 ≤ (zeros 16).length ∧ 16 * 1 < ceil16 (zeros 17).length := by decide

theorem witness_TrailingZerosEncryptAlike : ceil16 ((zeros 1).length + 15) = ceil16 (zeros 1).length := by decide

theorem witness_ZeroPaddedKeyGivesSameMac : (zeros 16).length + 48 ≤ 64 ∧ (zeros 32).length ≤ 32 ∧ (zeros 64).length ≤ 64 ∧
    64 < (zeros 65).length := by decide

theorem witness_GtxtBuildWritesPlaintext :
    (let s := withArgs (tiny 2 9 [0x78, 0x79] 2) 0 2
     s.SrcReady ∧ s.arg1.toNat ≤ s.srcLen.toNat ∧ s.srcLen.toNat + 7 ≤ s.cfg.dstSize) ∧
      (tiny 2 9 [] 3).cfg.srcSize < (tiny 2 9 [] 3).srcLen.toNat ∧
      (let s := withArgs (tiny 2 9 [] 2) 0 3
       s.srcLen.toNat ≤ s.cfg.srcSize ∧ s.srcLen.toNat < s.arg1.toNat) ∧
      (let s := withArgs (tiny 2 8 [] 2) 0 2
       s.srcLen.toNat ≤ s.cfg.srcSize ∧ s.arg1.toNat ≤ s.srcLen.toNat ∧ s.cfg.dstSize < s.srcLen.toNat + 7) ∧
      (let s := withArgs (tiny 2 9 [0x78] 2) 0 1
       s.srcLen.toNat ≤ s.cfg.srcSize ∧ s.arg1.toNat ≤ s.srcLen.toNat ∧ s.srcLen.toNat + 7 ≤ s.cfg.dstSize ∧
         ¬ s.SrcDefined 0 s.srcLen.toNat) := by decide

theorem witness_GtxtPacketWritesPacket :
    (let s := withArgs (tiny 2 21 [0x78, 0x79] 2) 0 2
     [0x00, 0x00, 0x00, 0x00, 0x00, 0x78, 0x79, 0x3A, 0x20] =
         u32le s.arg0 ++ [0x00] ++ s.srcBytes 0 s.arg1.toNat ++ [0x3A, 0x20] ++ s.srcBytes s.arg1.toNat s.srcLen.toNat ∧
       s.SrcReady ∧ s.SecretLegal ∧ 16 ≤ s.secretLen.toNat ∧ s.arg1.toNat ≤ s.srcLen.toNat ∧
       5 + ceil16 (s.srcLen.toNat + 7) ≤ s.cfg.dstSize) ∧
      (tiny 2 21 [] 3).cfg.srcSize < (tiny 2 21 [] 3).srcLen.toNat ∧
      (let s := withSecretLen (tiny 2 21 [] 2) 15
       s.srcLen.toNat ≤ s.cfg.srcSize ∧ ¬ s.SecretLegal) ∧
      (let s := withArgs (tiny 2 21 [] 2) 0 3
       s.srcLen.toNat ≤ s.cfg.srcSize ∧ s.SecretLegal ∧ s.srcLen.toNat < s.arg1.toNat) ∧
      (let s := withArgs (tiny 2 20 [] 2) 0 2
       s.srcLen.toNat ≤ s.cfg.srcSize ∧ s.SecretLegal ∧ s.arg1.toNat ≤ s.srcLen.toNat ∧
         s.cfg.dstSize < 5 + ceil16 (s.srcLen.toNat + 7)) ∧
      (let s := withArgs (tiny 2 21 [0x78] 2) 0 1
       s.srcLen.toNat ≤ s.cfg.srcSize ∧ s.SecretLegal ∧ s.arg1.toNat ≤ s.srcLen.toNat ∧
         5 + ceil16 (s.srcLen.toNat + 7) ≤ s.cfg.dstSize ∧ ¬ s.SrcDefined 0 s.srcLen.toNat) := by decide

theorem witness_DefaultSizesNeverOverflowDst :
    State.reset.cfg.srcSize = 65536 ∧ State.reset.cfg.dstSize = 131072 ∧ IsCommand .hdrPack ∧
      (nextOf (exec .hdrPack State.reset)).isSome = true := by
  refine ⟨by decide, by decide, rfl, by decide⟩

theorem witness_EncodingErrorIsPrecise :
    (nextOf (completeCommand (busy 0x05))).map (·.ecode) = some .encodingError ∧
      (nextOf (completeCommand (busy 0x01))).map (·.ecode) = some .noError := by decide

theorem witness_CommandsWriteOnlyTheirOutputs :
    (∀ i ∈ [Instr.csumClr, .csumAcc, .csumCompute, .csumVerify, .frameEncode, .hdrPack, .hdrUnpack, .pktParse, .gtxtBuild],
      (nextOf (exec i (loadArgs [0x15, 0x00] 0 0))).isSome = true) := by decide

theorem witness_CommandsWriteOnlyTheirOutputs_crypto :
    (∀ i ∈ [Instr.chash, .encMac, .gtxtPacket], (nextOf (exec i (loadArgs [0x15, 0x00] 0 0))).isSome = true) := by
  decide +kernel

theorem witness_CommandUnitAndDecoderAreIsolated :
    IsCommand .csumClr ∧ ¬ IsCommand (.rxByte 0xC0 0) ∧ (fed false [0xC0]).rx = { fed false [0xC0] with arg0 := 1 }.rx ∧
      (nextOf (exec (.rxByte 0x3E 0) (fed false [0xC0]))).isSome = true := by
  refine ⟨rfl, by unfold IsCommand; decide, rfl, by decide⟩

theorem witness_EncMacDependsOnlyOnSecretAndPlaintext :
    (load [1]).SrcReady ∧ (partly [1, 2] 1).SrcReady ∧ (load [1]).srcData = (partly [1, 2] 1).srcData ∧
      (load [1]).secretBytes = (partly [1, 2] 1).secretBytes := by decide

theorem witness_EncMacDependsOnlyOnSecretAndPlaintext_runs :
    (nextOf (exec .encMac (load [1]))).map (·.ecode) = some .noError ∧
      (nextOf (exec .encMac (partly [1, 2] 1))).map (·.ecode) = some .noError := by decide +kernel

theorem witness_NoStepChangesParameters : (nextOf (step (withInputs State.reset [.powerOn]))).isSome = true := by decide

theorem witness_AccumulatorsStayBelow255 :
    (let s := { busy 2 with csumA := 254, csumB := 254, rx := { Rx.reset with ra := 254, rb := 254 } }
     s.csumA.toNat ≤ 254 ∧ s.csumB.toNat ≤ 254 ∧ s.rx.ra.toNat ≤ 254 ∧ s.rx.rb.toNat ≤ 254 ∧
       (nextOf (step s)).isSome = true) ∧
      (0x15 : Byte) ∈ checksum [0x15, 0x00] ∧
      ((fed false (frame1.take 7)).rx.state = .csum ∧ (fed false (frame1.take 7)).rx.rcnt = 1 ∧
        (fed false (frame1.take 7)).rx.ra.toNat ≤ 254 ∧ (fed false (frame1.take 7)).rx.rb.toNat ≤ 254) := by decide

theorem witness_EveryStepKeepsInvariant :
    (writing State.reset 0x44 0xC0).Inv ∧ (nextOf (step (writing State.reset 0x44 0xC0))).isSome = true := by
  refine ⟨⟨by decide, by decide, ⟨by decide, by decide, by decide⟩, ⟨by decide, by decide⟩, ⟨by decide, by decide⟩,
    by decide, by decide, ?_, ?_, by decide, ?_⟩, by decide⟩
  · exact (by decide : 0 ≤ 1)
  · exact ⟨rfl, rfl, rfl, rfl⟩
  · exact ⟨by decide, by decide⟩

end Sys2Proof.Tests
end

section
/-! What one step can do, and the parameters of the instance that no step changes (00_scope R7, 20_memory R63). -/

namespace Sys2Proof.Machine

/-- The most any instruction changes (30_encoding R81, 10_state R20): the outputs and the status of the CU, and the decoder. -/
theorem exec_writes_outputs_and_rx {i : Instr} {s t : State} (h : exec i s = .next t) :
    t = { s with
      cuBusy := t.cuBusy, done := t.done, ecode := t.ecode, esub := t.esub, csumA := t.csumA, csumB := t.csumB,
      result := t.result, dst := t.dst, dstLen := t.dstLen, rx := t.rx } := by
  cases i with
  | csumClr | rxByte | rxAck | rxEos | rxRst => cases h; rfl
  | csumAcc => rcases execCsumAcc_next h with rfl | ⟨-, rfl⟩ <;> simp [State.ext_iff]
  | csumCompute => rcases execCsumCompute_next h with rfl | rfl | ⟨-, -, rfl⟩ <;> simp [State.ext_iff]
  | csumVerify => rcases execCsumVerify_next h with rfl | rfl | ⟨-, -, rfl⟩ <;> simp [State.ext_iff]
  | frameEncode => rcases execFrameEncode_next h with rfl | rfl | rfl | ⟨-, -, -, -, rfl⟩ <;> simp [State.ext_iff]
  | hdrPack => rcases execHdrPack_next h with rfl | ⟨-, rfl⟩ <;> simp [State.ext_iff]
  | hdrUnpack => rcases execHdrUnpack_next h with rfl | ⟨-, rfl⟩ <;> simp [State.ext_iff]
  | pktParse => rcases execPktParse_next h with rfl | rfl | rfl | rfl | ⟨-, -, -, -, -, rfl⟩ <;> simp [State.ext_iff]
  | chash => rcases execChash_next h with rfl | ⟨-, rfl⟩ <;> simp [State.ext_iff]
  | encMac => rcases execEncMac_next h with rfl | rfl | rfl | ⟨-, -, -, rfl⟩ <;> simp [State.ext_iff]
  | gtxtBuild => rcases execGtxtBuild_next h with rfl | rfl | rfl | ⟨-, -, -, rfl⟩ <;> simp [State.ext_iff]
  | gtxtPacket => rcases execGtxtPacket_next h with rfl | rfl | rfl | rfl | ⟨-, -, -, -, rfl⟩ <;> simp [State.ext_iff]

/-! Everything each part of the step can do when it answers a next state. -/

theorem cuStep_next {s t : State} (h : cuStep s = .next t) :
    (s.cuBusy = false ∧ t = s) ∨
      (s.cuBusy = true ∧ ∃ i, decode .cmd s.cuCmd = .instr i ∧ exec i s = .next t) ∨
      (s.cuBusy = true ∧ ∃ e, decode .cmd s.cuCmd = .reject e ∧ t = s.raiseError (rejectCode e)) := by
  unfold cuStep completeCommand at h
  split at h
  · rename_i hb
    split at h
    · exact .inr (.inl ⟨hb, _, ‹_›, h⟩)
    · cases h
      exact .inr (.inr ⟨hb, _, ‹_›, rfl⟩)
  · cases h
    exact .inl ⟨Bool.eq_false_iff.mpr ‹_›, rfl⟩

theorem runRxWord_next {d : Decoded} {s t : State} (h : runRxWord d s = .next t) :
    (∃ i, d = .instr i ∧ exec i s = .next t) ∨ ((∃ e, d = .reject e) ∧ t = s) := by
  cases d with
  | instr i => exact .inl ⟨i, rfl, h⟩
  | reject e =>
    cases h
    exact .inr ⟨⟨e, rfl⟩, rfl⟩

theorem hostRead_next {width : Width} {addr : Nat} {s t : State} (h : hostRead width addr s = .next t) :
    ∃ tgt, resolve s.cfg width addr = some tgt ∧ t = s.deliver (readTarget s tgt) := by
  unfold hostRead at h
  split at h
  · cases h
  · cases h
    exact ⟨_, ‹_›, rfl⟩

theorem hostWrite_next {width : Width} {addr : Nat} {v : Word} {s t : State} (h : hostWrite width addr v s = .next t) :
    ∃ tgt, resolve s.cfg width addr = some tgt ∧ ¬ (s.cuBusy = true ∧ tgt.isOperand = true) ∧
      ¬ (s.cuBusy = true ∧ tgt = .cmd) ∧ writeTarget tgt v s = .next t := by
  unfold hostWrite at h
  split at h
  · cases h
  · split_ifs at h with hop hcmd
    exact ⟨_, ‹_›, hop, hcmd, h⟩

theorem step_next {s t : State} (h : step s = .next t) :
    (s.inputs = [] ∧ cuStep s = .next t) ∨
      ∃ x rest, s.inputs = x :: rest ∧ runInput x { s with inputs := rest } = .next t := by
  cases hs : s.inputs with
  | nil => exact .inl ⟨rfl, by rwa [step_nil hs] at h⟩
  | cons x rest => exact .inr ⟨x, rest, rfl, by rwa [step_cons hs] at h⟩

/-! Each part of the step keeps the parameters. -/

theorem exec_cfg {i : Instr} {s t : State} (h : exec i s = .next t) : t.cfg = s.cfg := by
  rw [exec_writes_outputs_and_rx h]

theorem cuStep_cfg {s t : State} (h : cuStep s = .next t) : t.cfg = s.cfg := by
  rcases cuStep_next h with ⟨-, rfl⟩ | ⟨-, i, -, hi⟩ | ⟨-, e, -, rfl⟩
  · rfl
  · exact exec_cfg hi
  · exact State.raiseError_cfg ..

theorem runRxWord_cfg {d : Decoded} {s t : State} (h : runRxWord d s = .next t) : t.cfg = s.cfg := by
  rcases runRxWord_next h with ⟨i, -, hi⟩ | ⟨-, rfl⟩
  · exact exec_cfg hi
  · rfl

theorem writeTarget_cfg {tgt : Target} {v : Word} {s t : State} (h : writeTarget tgt v s = .next t) :
    t.cfg = s.cfg := by
  cases tgt with
  | ctrl => rw [writeTarget] at h; split at h <;> cases h <;> rfl
  | rxCtrl => exact runRxWord_cfg h
  | rxData => exact runRxWord_cfg (d := decode .rxData v) h
  | _ => cases h; rfl

@[simp] theorem State.deliver_cfg (s : State) (r : ReadValue) : (s.deliver r).cfg = s.cfg := by
  rw [s.deliver_sameBlock r]

theorem runInput_cfg {x : Input} {s t : State} (h : runInput x s = .next t) : t.cfg = s.cfg := by
  cases x with
  | read width addr =>
    obtain ⟨_, -, rfl⟩ := hostRead_next h
    exact State.deliver_cfg ..
  | write width addr v =>
    obtain ⟨_, -, -, -, hw⟩ := hostWrite_next h
    exact writeTarget_cfg hw
  | cuTurn => exact cuStep_cfg h
  | powerOn =>
    cases h
    exact State.resetBlock_cfg ..

/-- Settles O57: a step is the CU's turn or one input's, and both keep the parameters. -/
theorem noStepChangesParameters : Obligations.NoStepChangesParameters := by
  intro s t h
  rcases step_next h with ⟨-, hc⟩ | ⟨x, rest, -, hx⟩
  · exact cuStep_cfg hc
  · exact (runInput_cfg hx).trans rfl

end Sys2Proof.Machine
end

section
/-! The receive decoder's part of the invariant: what it says in each state, and that every RX operation keeps it
(10_state R35, R42, R43; 41_frame_codec R124-R136). -/

namespace Sys2Proof.Machine

/-- The result flags while a packet is being received (41_frame_codec R132). -/
def Rx.FlagsClear (r : Rx) : Prop :=
  r.valid = false ∧ r.ecode = .noError ∧ r.ovf = false ∧ r.eosf = false

/-- `RX_CSUM` of a valid result whose body's accumulators are `(a, b)` (10_state R37, 41_frame_codec R130). -/
def agreedCsum (ab : Byte × Byte) : Word :=
  ab.2 ++ ab.1 ++ ab.2 ++ ab.1

theorem Rx.inv_iff_of_magic_or_length {r : Rx} (h : r.state = .magic ∨ r.state = .length) :
    r.Inv ↔ r.ra.toNat ≤ 254 ∧ r.rb.toNat ≤ 254 ∧ r.rcnt ≤ 1 ∧ r.FlagsClear ∧ r.buf = [] := by
  rcases h with h | h <;>
    simp +contextual [Rx.Inv, Rx.CountInRange, Rx.FlagsFit, Rx.storedCount, Rx.SumsBody, Rx.FlagsClear, h]

theorem Rx.inv_iff_of_body {r : Rx} (h : r.state = .body) :
    r.Inv ↔ r.ra.toNat ≤ 254 ∧ r.rb.toNat ≤ 254 ∧ r.rcnt < r.len.toNat ∧ r.FlagsClear ∧
      r.buf.map Prod.fst = List.range r.rcnt ∧ (r.ra, r.rb) = fletcher 0 0 r.bodyBytes := by
  simp +contextual [Rx.Inv, Rx.CountInRange, Rx.FlagsFit, Rx.storedCount, Rx.SumsBody, Rx.FlagsClear, h]

theorem Rx.inv_iff_of_csum {r : Rx} (h : r.state = .csum) :
    r.Inv ↔ r.ra.toNat ≤ 254 ∧ r.rb.toNat ≤ 254 ∧ r.rcnt ≤ 1 ∧ r.FlagsClear ∧
      r.buf.map Prod.fst = List.range r.len.toNat ∧ (r.ra, r.rb) = fletcher 0 0 r.bodyBytes := by
  simp +contextual [Rx.Inv, Rx.CountInRange, Rx.FlagsFit, Rx.storedCount, Rx.SumsBody, Rx.FlagsClear, h]

theorem Rx.inv_iff_of_hold {r : Rx} (h : r.state = .hold) :
    r.Inv ↔ r.ra.toNat ≤ 254 ∧ r.rb.toNat ≤ 254 ∧ r.rcnt = 0 ∧
      ((r.valid = true ∧ r.ecode = .noError ∧ r.buf.map Prod.fst = List.range r.len.toNat ∧
          r.csum = agreedCsum (fletcher 0 0 r.bodyBytes)) ∨
        (r.valid = false ∧ (r.ecode = .badMagic ∨ r.ecode = .checksumMismatch) ∧ r.buf = [])) := by
  cases hv : r.valid <;>
    simp [Rx.Inv, Rx.CountInRange, Rx.FlagsFit, Rx.storedCount, Rx.SumsBody, agreedCsum, h, hv]

theorem Rx.inv_iff_of_closed {r : Rx} (h : r.state = .closed) :
    r.Inv ↔ r.ra.toNat ≤ 254 ∧ r.rb.toNat ≤ 254 ∧ r.rcnt = 0 ∧ r.valid = false ∧ r.ecode = .truncated ∧
      r.eosf = true ∧ r.buf = [] := by
  cases hv : r.valid <;> simp [Rx.Inv, Rx.CountInRange, Rx.FlagsFit, Rx.storedCount, Rx.SumsBody, h, hv, and_assoc]

/-- A valid result is held, and its whole body is stored. -/
theorem Rx.Inv.stored_of_valid {r : Rx} (hi : r.Inv) (hv : r.valid = true) :
    r.buf.map Prod.fst = List.range r.len.toNat := by
  obtain ⟨-, -, -, hf, hbuf, -⟩ := hi
  cases h : r.state <;> simp_all [Rx.FlagsFit, Rx.storedCount]

/-- One more body byte goes on top of RXBUF and into the accumulators (41_frame_codec R127). -/
theorem Rx.bodyBytes_put {r : Rx} {n : Nat} (h : r.buf.map Prod.fst = List.range n) (x : Byte) :
    (Memory.put r.buf n x).map Prod.snd = r.bodyBytes ++ [x] := by
  simp [Memory.put_append h, Rx.bodyBytes]

/-! Each operation keeps the decoder's part. (`by exact h` lets the goal say which decoder the state is of: one whose other
fields the operation changed.) -/

theorem Rx.inv_magicByte {r : Rx} (h : r.state = .magic) (hi : r.Inv) (d : Bool) (x : Byte) : (r.magicByte d x).Inv := by
  obtain ⟨ha, hb, -, hf, hbuf⟩ := (Rx.inv_iff_of_magic_or_length (.inl h)).mp hi
  unfold Rx.magicByte
  split_ifs
  · exact hi
  · exact (Rx.inv_iff_of_magic_or_length (.inl (by exact h))).mpr ⟨ha, hb, le_rfl, hf, hbuf⟩
  · exact (Rx.inv_iff_of_magic_or_length (.inr rfl)).mpr ⟨ha, hb, Nat.zero_le 1, hf, hbuf⟩
  · exact (Rx.inv_iff_of_hold rfl).mpr ⟨ha, hb, rfl, .inr ⟨rfl, .inl rfl, hbuf⟩⟩

theorem Rx.inv_lengthByte {r : Rx} (h : r.state = .length) (hi : r.Inv) (x : Byte) : (r.lengthByte x).Inv := by
  obtain ⟨ha, hb, -, hf, hbuf⟩ := (Rx.inv_iff_of_magic_or_length (.inr h)).mp hi
  unfold Rx.lengthByte
  dsimp only
  split_ifs with h0 hn
  · exact (Rx.inv_iff_of_magic_or_length (.inr (by exact h))).mpr ⟨ha, hb, le_rfl, hf, hbuf⟩
  · exact (Rx.inv_iff_of_csum rfl).mpr ⟨by simp, by simp, Nat.zero_le 1, hf, by simp [hn], rfl⟩
  · have hpos : 0 < (r.lhi ++ x).toNat := Nat.pos_of_ne_zero fun h0 => hn (BitVec.eq_of_toNat_eq h0)
    exact (Rx.inv_iff_of_body rfl).mpr ⟨by simp, by simp, hpos, hf, rfl, rfl⟩

theorem Rx.inv_bodyByte {r : Rx} (h : r.state = .body) (hi : r.Inv) (x : Byte) : (r.bodyByte x).Inv := by
  obtain ⟨-, -, hlt, hf, hbuf, hsum⟩ := (Rx.inv_iff_of_body h).mp hi
  obtain ⟨ha, hb⟩ := fletcherStep_le (r.ra, r.rb) x
  have hbuf' : (Memory.put r.buf r.rcnt x).map Prod.fst = List.range (r.rcnt + 1) := by
    simp [Memory.put_append hbuf, hbuf, List.range_succ]
  have hsum' : fletcherStep (r.ra, r.rb) x = fletcher 0 0 ((Memory.put r.buf r.rcnt x).map Prod.snd) := by
    rw [Rx.bodyBytes_put hbuf, hsum]
    simp [fletcher]
  unfold Rx.bodyByte
  dsimp only
  split_ifs with hend
  · exact (Rx.inv_iff_of_csum rfl).mpr ⟨ha, hb, Nat.zero_le 1, hf, hend ▸ hbuf', hsum'⟩
  · exact (Rx.inv_iff_of_body (by exact h)).mpr ⟨ha, hb, by dsimp only; omega, hf, hbuf', hsum'⟩

theorem Rx.inv_csumByte {r : Rx} (h : r.state = .csum) (hi : r.Inv) (x : Byte) : (r.csumByte x).Inv := by
  obtain ⟨ha, hb, -, hf, hbuf, hsum⟩ := (Rx.inv_iff_of_csum h).mp hi
  unfold Rx.csumByte
  dsimp only
  split_ifs with h0 heq
  · exact (Rx.inv_iff_of_csum (by exact h)).mpr ⟨ha, hb, le_rfl, hf, hbuf, hsum⟩
  · have hcsum : r.rb ++ r.ra ++ r.c0 ++ x = agreedCsum (fletcher 0 0 r.bodyBytes) := by
      rw [heq.1, heq.2, ← hsum, agreedCsum]
    exact (Rx.inv_iff_of_hold rfl).mpr ⟨ha, hb, rfl, .inl ⟨rfl, rfl, hbuf, hcsum⟩⟩
  · exact (Rx.inv_iff_of_hold rfl).mpr ⟨ha, hb, rfl, .inr ⟨rfl, .inr rfl, rfl⟩⟩

theorem Rx.inv_byte {r : Rx} (hi : r.Inv) (d : Bool) (x : Byte) : (r.byte d x).Inv := by
  cases h : r.state with
  | magic => exact Rx.byte_magic h d x ▸ Rx.inv_magicByte h hi d x
  | length => exact Rx.byte_length h d x ▸ Rx.inv_lengthByte h hi x
  | body => exact Rx.byte_body h d x ▸ Rx.inv_bodyByte h hi x
  | csum => exact Rx.byte_csum h d x ▸ Rx.inv_csumByte h hi x
  | hold => exact Rx.byte_dropped (.inl h) d x ▸ (Rx.inv_iff_of_hold (by exact h)).mpr ((Rx.inv_iff_of_hold h).mp hi)
  | closed => exact Rx.byte_dropped (.inr h) d x ▸ (Rx.inv_iff_of_closed (by exact h)).mpr ((Rx.inv_iff_of_closed h).mp hi)

theorem Rx.inv_eos {r : Rx} (hi : r.Inv) : r.eos.Inv := by
  by_cases hh : r.state = .hold
  · rw [Rx.eos_finished (.inl hh)]
    exact (Rx.inv_iff_of_hold (by exact hh)).mpr ((Rx.inv_iff_of_hold hh).mp hi)
  by_cases hc : r.state = .closed
  · obtain ⟨ha, hb, hn, hv, he, -, hbuf⟩ := (Rx.inv_iff_of_closed hc).mp hi
    rw [Rx.eos_finished (.inr hc)]
    exact (Rx.inv_iff_of_closed (by exact hc)).mpr ⟨ha, hb, hn, hv, he, rfl, hbuf⟩
  · obtain ⟨ha, hb, -⟩ := hi
    rw [Rx.eos_unfinished hh hc]
    exact (Rx.inv_iff_of_closed rfl).mpr ⟨ha, hb, rfl, rfl, rfl, rfl, rfl⟩

theorem Rx.inv_ack {r : Rx} (hi : r.Inv) : r.ack.Inv := by
  by_cases h : r.state = .hold
  · obtain ⟨ha, hb, hn, -⟩ := (Rx.inv_iff_of_hold h).mp hi
    simp only [Rx.ack, h]
    split_ifs with he
    · exact (Rx.inv_iff_of_closed rfl).mpr ⟨ha, hb, hn, rfl, rfl, he, rfl⟩
    · exact (Rx.inv_iff_of_magic_or_length (.inl rfl)).mpr
        ⟨ha, hb, Nat.zero_le 1, ⟨rfl, rfl, rfl, Bool.eq_false_iff.mpr he⟩, rfl⟩
  · rwa [Rx.ack_idle h]

theorem Rx.inv_reset : Rx.reset.Inv :=
  (Rx.inv_iff_of_magic_or_length (.inl rfl)).mpr (by simp [Rx.reset, Rx.FlagsClear])

end Sys2Proof.Machine
end

section
/-! The invariant of the machine: every named update keeps it, so every instruction, every input and every step does
(10_state R22, R25, R31, R42; 40_checksum R106; 60_exceptions R260, R261). -/

namespace Sys2Proof.Machine

/-- A buffer with no defined byte fits any size. -/
theorem Memory.inside_nil (size : Nat) : Memory.Inside [] size :=
  ⟨List.Pairwise.nil, by simp⟩

/-- A word write inside SRC stays inside it: the lanes past its end are dropped (log 10). -/
theorem inside_putSrc {m : Memory} {size i : Nat} (h : Memory.Inside m size) (hi : i < size) (v : Word) :
    Memory.Inside (putSrc size m i v) size :=
  Memory.inside_putBytes h (.inr (by simp only [List.length_take, List.length_cons, List.length_nil]; omega))

/-! Each update of the state keeps the invariant. -/

theorem State.inv_setCsum {s : State} (h : s.Inv) {ab : Byte × Byte} (ha : ab.1.toNat ≤ 254) (hb : ab.2.toNat ≤ 254) :
    (s.setCsum ab).Inv := by
  obtain ⟨-, -, hrest⟩ := h
  exact ⟨ha, hb, hrest⟩

theorem State.inv_setResult {s : State} (h : s.Inv) (v : Word) : (s.setResult v).Inv := h

theorem State.inv_putDst {s : State} (h : s.Inv) {bs : List Byte} (hlen : bs.length ≤ s.cfg.dstSize) :
    (s.putDst bs).Inv := by
  obtain ⟨ha, hb, hst, hsrc, hdst, hrx⟩ := h
  exact ⟨ha, hb, hst, hsrc, Memory.inside_putBytes hdst (.inr (by simpa using hlen)), hrx⟩

theorem State.inv_setRx {s : State} (h : s.Inv) {r : Rx} (hr : r.Inv) : (s.setRx r).Inv := by
  obtain ⟨ha, hb, hst, hsrc, hdst, -⟩ := h
  exact ⟨ha, hb, hst, hsrc, hdst, hr⟩

theorem State.inv_finish {s : State} (h : s.Inv) : s.finish.Inv := by
  obtain ⟨ha, hb, -, hmem⟩ := h
  exact ⟨ha, hb, by simp [State.StatusFits], hmem⟩

theorem State.inv_raiseError {s : State} (h : s.Inv) {sub : ESub} (hsub : sub ≠ .noError) : (s.raiseError sub).Inv := by
  obtain ⟨ha, hb, -, hmem⟩ := h
  exact ⟨ha, hb, by simp [State.StatusFits, hsub], hmem⟩

theorem State.inv_latch {s : State} (h : s.Inv) (w : Word) : (s.latch w).Inv := by
  obtain ⟨ha, hb, -, hmem⟩ := h
  exact ⟨ha, hb, by simp [State.StatusFits], hmem⟩

theorem State.inv_resetBlock (s : State) : s.resetBlock.Inv :=
  ⟨by simp, by simp, by simp [State.StatusFits], Memory.inside_nil _, Memory.inside_nil _,
    Rx.inv_reset⟩

theorem State.inv_deliver {s : State} (h : s.Inv) (r : ReadValue) : (s.deliver r).Inv := by
  rw [s.deliver_sameBlock r]
  exact h

/-! Each instruction keeps the invariant. -/

theorem length_encryptThenMac_le (secret pt : List Byte) :
    (encryptThenMac secret pt).length ≤ 2 + ceil16 pt.length := by
  simpa [encryptThenMac] using length_ecbEncrypt_le secret pt

theorem length_groupTextPacket_le (secret sender message : List Byte) (ts : Word) :
    (groupTextPacket secret sender message ts).length ≤ 5 + ceil16 (sender.length + message.length + 7) := by
  have h := length_encryptThenMac_le secret (groupText ts sender message)
  rw [length_groupText] at h
  simp only [groupTextPacket, List.length_append, List.length_cons, List.length_nil]
  omega

/-- The four RX operations keep the invariant: only the decoder changes. -/
theorem inv_of_rx {s : State} (h : s.Inv) {f : Rx → Rx} (hf : ∀ r : Rx, r.Inv → (f r).Inv) : (s.setRx (f s.rx)).Inv := by
  obtain ⟨-, -, -, -, -, hrx⟩ := id h
  exact State.inv_setRx h (hf s.rx hrx)

theorem exec_inv {i : Instr} {s t : State} (hi : s.Inv) (h : exec i s = .next t) : t.Inv := by
  have err (sub : ESub) (hsub : sub ≠ .noError := by decide) : (s.raiseError sub).Inv := State.inv_raiseError hi hsub
  have res (v : Word) : (s.setResult v).finish.Inv := State.inv_finish (State.inv_setResult hi v)
  have sum (a b : Byte) (ha : a.toNat ≤ 254) (hb : b.toNat ≤ 254) (v : Word) :
      ((s.setCsum (fletcher a b s.srcData)).setResult v).Inv := by
    obtain ⟨ha', hb'⟩ := fletcher_le ha hb s.srcData
    exact State.inv_setResult (State.inv_setCsum hi ha' hb') v
  have out {bs : List Byte} {n : Nat} (hbs : bs.length ≤ n) (hn : n ≤ s.cfg.dstSize) : (s.putDst bs).Inv :=
    State.inv_putDst hi (hbs.trans hn)
  cases i with
  | csumClr =>
    cases h
    exact State.inv_finish (State.inv_setResult (State.inv_setCsum hi (by decide) (by decide)) 0)
  | csumAcc =>
    obtain ⟨hA, hB, -⟩ := id hi
    rcases execCsumAcc_next h with rfl | ⟨-, rfl⟩
    exacts [err _, State.inv_finish (sum _ _ hA hB _)]
  | csumCompute =>
    rcases execCsumCompute_next h with rfl | rfl | ⟨-, hlen, rfl⟩
    exacts [err _, err _, State.inv_finish (State.inv_putDst (sum 0 0 (by decide) (by decide) _) hlen)]
  | csumVerify =>
    rcases execCsumVerify_next h with rfl | rfl | ⟨-, v, rfl⟩
    exacts [err _, err _, State.inv_finish (sum 0 0 (by decide) (by decide) v)]
  | frameEncode =>
    rcases execFrameEncode_next h with rfl | rfl | rfl | ⟨-, -, hlen, v, rfl⟩
    exacts [err _, err _, err _, State.inv_finish (State.inv_setResult (out (by simp [State.srcData]) hlen) v)]
  | hdrPack =>
    rcases execHdrPack_next h with rfl | ⟨v, rfl⟩
    exacts [err _, res v]
  | hdrUnpack =>
    rcases execHdrUnpack_next h with rfl | ⟨v, rfl⟩
    exacts [err _, res v]
  | pktParse =>
    rcases execPktParse_next h with rfl | rfl | rfl | rfl | ⟨-, v, payload, hlen, -, rfl⟩
    exacts [err _, err _, err _, err _, State.inv_finish (State.inv_putDst (State.inv_setResult hi v) hlen)]
  | chash =>
    rcases execChash_next h with rfl | ⟨v, rfl⟩
    exacts [err _, res v]
  | encMac =>
    have hbs : (encryptThenMac s.secretBytes s.srcData).length ≤ 2 + ceil16 s.srcLen.toNat := by
      simpa [State.srcData] using length_encryptThenMac_le s.secretBytes s.srcData
    rcases execEncMac_next h with rfl | rfl | rfl | ⟨-, -, hlen, rfl⟩
    exacts [err _, err _, err _, State.inv_finish (State.inv_setResult (out hbs hlen) _)]
  | gtxtBuild =>
    rcases execGtxtBuild_next h with rfl | rfl | rfl | ⟨-, harg, hlen, rfl⟩
    exacts [err _, err _, err _, State.inv_finish (out (by simp [Nat.add_sub_cancel' harg]) hlen)]
  | gtxtPacket =>
    rcases execGtxtPacket_next h with rfl | rfl | rfl | rfl | ⟨-, -, harg, hlen, rfl⟩
    exacts [err _, err _, err _, err _,
      State.inv_finish (out ((length_groupTextPacket_le ..).trans (by simp [Nat.add_sub_cancel' harg])) hlen)]
  | rxByte x ignored =>
    cases h
    exact inv_of_rx hi fun _ hr => Rx.inv_byte hr s.dskip x
  | rxAck eos ignored =>
    cases h
    cases eos
    · exact inv_of_rx hi fun _ hr => Rx.inv_ack hr
    · exact inv_of_rx hi fun _ hr => Rx.inv_eos (Rx.inv_ack hr)
  | rxEos ack ignored =>
    cases h
    cases ack
    · exact inv_of_rx hi fun _ hr => Rx.inv_eos hr
    · exact inv_of_rx hi fun _ hr => Rx.inv_eos (Rx.inv_ack hr)
  | rxRst ack eos ignored =>
    cases h
    exact State.inv_setRx hi Rx.inv_reset

/-! Each part of the step keeps the invariant. -/

theorem rejectCode_ne_noError (e : DecodeError) : rejectCode e ≠ .noError := by
  cases e <;> decide

theorem cuStep_inv {s t : State} (hi : s.Inv) (h : cuStep s = .next t) : t.Inv := by
  rcases cuStep_next h with ⟨-, rfl⟩ | ⟨-, i, -, h⟩ | ⟨-, e, -, rfl⟩
  · exact hi
  · exact exec_inv hi h
  · exact State.inv_raiseError hi (rejectCode_ne_noError e)

theorem runRxWord_inv {d : Decoded} {s t : State} (hi : s.Inv) (h : runRxWord d s = .next t) : t.Inv := by
  rcases runRxWord_next h with ⟨i, -, h⟩ | ⟨-, rfl⟩
  · exact exec_inv hi h
  · exact hi

/-- No register is a window word (10_state R23). -/
theorem registerMap_lookup_ne_src (off i : Nat) : registerMap.lookup off ≠ some (.src i) := by
  intro h
  obtain ⟨l₁, l₂, hl, -⟩ := List.lookup_eq_some_iff.mp h
  have hmem : (off, Target.src i) ∈ registerMap := by simp [hl]
  simp [registerMap] at hmem

/-- An access reaches SRC inside its size only (20_memory R63). -/
theorem lt_srcSize_of_resolve {c : Config} {width : Width} {addr i : Nat} (h : resolve c width addr = some (.src i)) :
    i < c.srcSize := by
  unfold resolve busTarget at h
  split_ifs at h with _ _ _ _ _ hi
  · exact absurd h (registerMap_lookup_ne_src _ i)
  all_goals simp only [Option.some.injEq, Target.src.injEq, reduceCtorEq] at h
  exact h ▸ hi

theorem writeTarget_inv {tgt : Target} {v : Word} {s t : State} (hi : s.Inv)
    (hsrc : ∀ i, tgt = .src i → i < s.cfg.srcSize) (h : writeTarget tgt v s = .next t) : t.Inv := by
  cases tgt with
  | ctrl =>
    rw [writeTarget] at h
    split at h <;> cases h
    · exact s.inv_resetBlock
    · exact hi
  | cmd =>
    cases h
    exact State.inv_latch hi v
  | src i =>
    cases h
    obtain ⟨ha, hb, hst, hmem, hrest⟩ := hi
    exact ⟨ha, hb, hst, inside_putSrc hmem (hsrc i rfl) v, hrest⟩
  | rxCtrl => exact runRxWord_inv hi h
  | rxData => exact runRxWord_inv (d := decode .rxData v) hi h
  | _ =>
    cases h
    exact hi

theorem runInput_inv {x : Input} {s t : State} (hi : s.Inv) (h : runInput x s = .next t) : t.Inv := by
  cases x with
  | read width addr =>
    obtain ⟨_, -, rfl⟩ := hostRead_next h
    exact State.inv_deliver hi _
  | write width addr v =>
    obtain ⟨_, ht, -, -, hw⟩ := hostWrite_next h
    refine writeTarget_inv hi (fun i hi => ?_) hw
    subst hi
    exact lt_srcSize_of_resolve ht
  | cuTurn => exact cuStep_inv hi h
  | powerOn =>
    cases h
    exact s.inv_resetBlock

/-- Settles O59: a step is the CU's turn or one input's, and both keep the invariant, the decoder's by `Rx.inv_byte`,
`Rx.inv_ack` and `Rx.inv_eos`. -/
theorem everyStepKeepsInvariant : Obligations.EveryStepKeepsInvariant := by
  intro s t hi h
  rcases step_next h with ⟨-, hc⟩ | ⟨x, rest, -, hx⟩
  · exact cuStep_inv hi hc
  · exact runInput_inv (s := { s with inputs := rest }) hi hx

end Sys2Proof.Machine
end

section
/-! The command unit's turn and the two agents' separate state (10_state R20, R22). -/

namespace Sys2Proof.Machine

/-- Settles O5: the CU's turn on a busy CU is `completeCommand`, which decodes the latched word. -/
theorem stepRunsLatchedCommand : Obligations.StepRunsLatchedCommand := by
  intro s i hbusy hdec
  have turn (t : State) (hb : t.cuBusy = true) (hc : t.cuCmd = s.cuCmd) : cuStep t = exec i t := by
    rw [cuStep, if_pos hb, completeCommand, hc, hdec]
  refine ⟨fun h => ?_, fun rest h => ?_⟩
  · rw [step_nil h, turn s hbusy rfl]
  · rw [step_cons h]
    exact turn { s with inputs := rest } hbusy rfl

/-- No command touches the decoder (60_exceptions R264). -/
theorem exec_rx_of_command {i : Instr} {s t : State} (hi : IsCommand i) (h : exec i s = .next t) : t.rx = s.rx := by
  cases i with
  | csumClr => cases h; rfl
  | csumAcc => rcases execCsumAcc_next h with rfl | ⟨-, rfl⟩ <;> simp
  | csumCompute => rcases execCsumCompute_next h with rfl | rfl | ⟨-, -, rfl⟩ <;> simp
  | csumVerify => rcases execCsumVerify_next h with rfl | rfl | ⟨-, -, rfl⟩ <;> simp
  | frameEncode => rcases execFrameEncode_next h with rfl | rfl | rfl | ⟨-, -, -, -, rfl⟩ <;> simp
  | hdrPack => rcases execHdrPack_next h with rfl | ⟨-, rfl⟩ <;> simp
  | hdrUnpack => rcases execHdrUnpack_next h with rfl | ⟨-, rfl⟩ <;> simp
  | pktParse => rcases execPktParse_next h with rfl | rfl | rfl | rfl | ⟨-, -, -, -, -, rfl⟩ <;> simp
  | chash => rcases execChash_next h with rfl | ⟨-, rfl⟩ <;> simp
  | encMac => rcases execEncMac_next h with rfl | rfl | rfl | ⟨-, -, -, rfl⟩ <;> simp
  | gtxtBuild => rcases execGtxtBuild_next h with rfl | rfl | rfl | ⟨-, -, -, rfl⟩ <;> simp
  | gtxtPacket => rcases execGtxtPacket_next h with rfl | rfl | rfl | rfl | ⟨-, -, -, -, rfl⟩ <;> simp
  | rxByte | rxAck | rxEos | rxRst => cases hi

/-- An RX operation is one function of the decoder and DSKIP, and changes the decoder alone (10_state R20). -/
theorem exec_of_rxOperation {i : Instr} (hi : ¬ IsCommand i) :
    ∃ f : Bool → Rx → Rx, ∀ s : State, exec i s = .next { s with rx := f s.dskip s.rx } := by
  cases i with
  | rxByte x ignored => exact ⟨fun d r => r.byte d x, fun _ => rfl⟩
  | rxAck eos ignored => exact ⟨fun _ r => if eos then r.ack.eos else r.ack, fun _ => rfl⟩
  | rxEos ack ignored => exact ⟨fun _ r => if ack then r.ack.eos else r.eos, fun _ => rfl⟩
  | rxRst ack eos ignored => exact ⟨fun _ _ => Rx.reset, fun _ => rfl⟩
  | _ => exact absurd rfl hi

/-- Settles O55: commands keep the decoder, and an RX operation is a function of the decoder and DSKIP. -/
theorem commandUnitAndDecoderAreIsolated : Obligations.CommandUnitAndDecoderAreIsolated := by
  refine ⟨fun s t i => exec_rx_of_command, fun s i hi => ?_, fun s s' t t' i hi hrx hd h h' => ?_⟩
  · obtain ⟨f, hf⟩ := exec_of_rxOperation hi
    exact ⟨_, hf s⟩
  · obtain ⟨f, hf⟩ := exec_of_rxOperation hi
    rw [hf] at h h'
    cases h
    cases h'
    rw [hrx, hd]

end Sys2Proof.Machine
end

section
/-! What a host reads from and writes to the registers (10_state R23-R37, R45; 20_memory R62, R70, R71). -/

namespace Sys2Proof.Machine

section Access

variable {s : State} {rest : List Input} {off : Nat} {v w : Word} {t : Target}

/-- What a read answers does not depend on the inputs that wait. -/
theorem readTarget_inputs (s : State) (rest : List Input) (t : Target) :
    readTarget { s with inputs := rest } t = readTarget s t := by
  cases t <;> rfl

theorem step_read_word (hb : s.cfg.base % 4 = 0) (ho : off % 4 = 0) (ht : busTarget s.cfg off = some t)
    (h : s.inputs = .read .word (s.cfg.base + off) :: rest) :
    step s = .next (State.deliver { s with inputs := rest } (readTarget s t)) := by
  rw [step_read h ((resolve_word hb ho).trans ht), readTarget_inputs]

/-- A read of a defined value hands it to the host and changes nothing else (20_memory R68). -/
theorem step_read_exact (hb : s.cfg.base % 4 = 0) (ho : off % 4 = 0) (ht : busTarget s.cfg off = some t)
    (h : s.inputs = .read .word (s.cfg.base + off) :: rest) (hv : readTarget s t = .exact w) :
    step s = .next { s with inputs := rest, lastRead := some w } := by
  rw [step_read_word hb ho ht h, hv]
  rfl

/-- No hazard stands in the way of a write to the idle CU's registers (70_reset R292, R293). -/
theorem step_write_idle (hb : s.cfg.base % 4 = 0) (ho : off % 4 = 0) (ht : busTarget s.cfg off = some t)
    (h : s.inputs = .write .word (s.cfg.base + off) v :: rest) (hidle : s.cuBusy = false) :
    step s = writeTarget t v { s with inputs := rest } := by
  rw [step_write h ((resolve_word hb ho).trans ht)]
  simp [hidle]

/-- A write to what is neither an operand nor `CMD` meets no hazard. -/
theorem step_write_nonOperand (hb : s.cfg.base % 4 = 0) (ho : off % 4 = 0) (ht : busTarget s.cfg off = some t)
    (h : s.inputs = .write .word (s.cfg.base + off) v :: rest) (hop : t.isOperand = false) (hcmd : t ≠ .cmd) :
    step s = writeTarget t v { s with inputs := rest } := by
  rw [step_write h ((resolve_word hb ho).trans ht)]
  simp [hop, hcmd]

/-- A write to the idle CU and a read of the same register: the second step reads what the first left. -/
theorem run_write_read {s' : State} (hb : s.cfg.base % 4 = 0) (ho : off % 4 = 0) (ht : busTarget s.cfg off = some t)
    (h : s.inputs = .write .word (s.cfg.base + off) v :: .read .word (s.cfg.base + off) :: rest)
    (hidle : s.cuBusy = false)
    (hw : writeTarget t v { s with inputs := .read .word (s.cfg.base + off) :: rest } = .next s')
    (hin : s'.inputs = .read .word (s.cfg.base + off) :: rest) (hv : readTarget s' t = .exact w) :
    core.run 2 s = .next { s' with inputs := rest, lastRead := some w } := by
  have hcfg := writeTarget_cfg hw
  dsimp only at hcfg
  have e1 : core.step s = .next s' := (step_write_idle hb ho ht h hidle).trans hw
  have e2 : core.step s' = .next { s' with inputs := rest, lastRead := some w } :=
    step_read_exact (hcfg ▸ hb) ho (hcfg ▸ ht) (hcfg ▸ hin) hv
  simp only [Host.Core.run, e1, e2]

end Access

/-- Settles O7: the write reaches `CMD`, and `State.latch` is all it does. -/
theorem cmdWriteStartsCommand : Obligations.CmdWriteStartsCommand := by
  intro s rest w hb hidle h
  exact step_write_idle hb (by decide) rfl h hidle

/-! Words and their fields. -/

/-- Bits set only above a value's width see none of it. -/
theorem setWidth_and_eq_zero {n : Nat} (x : BitVec n) {m : Word} (hm : ∀ k < n, m.getLsbD k = false) :
    x.setWidth 32 &&& m = 0 := by
  apply BitVec.eq_of_getLsbD_eq
  intro k _
  by_cases hk : k < n
  · simp [hm k hk]
  · simp [BitVec.getLsbD_of_ge x k (by omega)]

/-- The low `n` bits of a word, as a word. -/
theorem setWidth_extractLsb'_eq_and (v : Word) (n : Nat) :
    (v.extractLsb' 0 n).setWidth 32 = v &&& BitVec.ofNat 32 (2 ^ n - 1) := by
  apply BitVec.eq_of_getLsbD_eq
  intro k hk
  simp only [BitVec.getLsbD_setWidth, BitVec.getLsbD_extractLsb', BitVec.getLsbD_and, BitVec.getLsbD_ofNat,
    Nat.testBit_two_pow_sub_one, Nat.zero_add, hk, decide_true, Bool.true_and, Bool.and_comm]

/-- Bits put in front of others are worth their place. -/
theorem toNat_append_eq_add {m n : Nat} (x : BitVec m) (y : BitVec n) : (x ++ y).toNat = x.toNat * 2 ^ n + y.toNat := by
  rw [BitVec.toNat_append, ← Nat.shiftLeft_add_eq_or_of_lt y.isLt, Nat.shiftLeft_eq]

/-! The reserved bits of a register as read: its fields stand under zeros of the mask (10_state R45). -/

theorem State.ctrlWord_reserved (s : State) : s.ctrlWord &&& 0xFFFFFFFD = 0 := by
  have h : (0#30 ++ BitVec.ofBool s.dskip ++ 0#1) &&& (0x3FFFFFFF#30 ++ 0#1 ++ 1#1) = 0 := by
    simp only [BitVec.and_append]
    simp
  exact h

theorem State.statusWord_reserved (s : State) : s.statusWord &&& 0xFFFF000C = 0 := by
  have h : (0#16 ++ s.esub.bits ++ s.ecode.bits ++ 0#2 ++ BitVec.ofBool s.done ++ BitVec.ofBool s.cuBusy) &&&
      (0xFFFF#16 ++ 0#8 ++ 0#4 ++ 3#2 ++ 0#1 ++ 0#1) = 0 := by
    simp only [BitVec.and_append]
    simp
  exact h

theorem Rx.statusWord_reserved (r : Rx) : r.statusWord &&& 0xFFFFFC00 = 0 := by
  have h : (0#22 ++ BitVec.ofBool r.eosf ++ BitVec.ofBool r.ovf ++ r.ecode.bits ++ BitVec.ofBool r.valid ++
      r.state.bits) &&& (0x3FFFFF#22 ++ 0#1 ++ 0#1 ++ 0#4 ++ 0#1 ++ 0#3) = 0 := by
    simp only [BitVec.and_append]
    simp
  exact h

theorem State.csumWord_reserved (s : State) : s.csumWord &&& 0xFFFF0000 = 0 := by
  have h : (0#16 ++ s.csumB ++ s.csumA) &&& (0xFFFF#16 ++ 0#8 ++ 0#8) = 0 := by
    simp only [BitVec.and_append]
    simp
  exact h

/-! The registers as read, as numbers (10_state R24, R25, R31, R35). -/

theorem State.ctrlWord_eq (s : State) : s.ctrlWord = BitVec.ofNat 32 (2 * s.dskip.toNat) := by
  cases h : s.dskip <;> simp [State.ctrlWord, h]

theorem State.statusWord_eq (s : State) :
    s.statusWord = BitVec.ofNat 32
      (s.cuBusy.toNat + 2 * s.done.toNat + 16 * s.ecode.bits.toNat + 256 * s.esub.bits.toNat) := by
  apply BitVec.eq_of_toNat_eq
  have := s.ecode.bits.isLt
  have := s.esub.bits.isLt
  have := s.cuBusy.toNat_le
  have := s.done.toNat_le
  simp only [State.statusWord, toNat_append_eq_add, BitVec.toNat_ofBool, BitVec.ofNat_eq_ofNat, BitVec.toNat_ofNat]
  omega

theorem Rx.statusWord_eq (r : Rx) :
    r.statusWord = BitVec.ofNat 32
      (r.state.bits.toNat + 8 * r.valid.toNat + 16 * r.ecode.bits.toNat + 256 * r.ovf.toNat + 512 * r.eosf.toNat) := by
  apply BitVec.eq_of_toNat_eq
  have := r.state.bits.isLt
  have := r.ecode.bits.isLt
  have := r.valid.toNat_le
  have := r.ovf.toNat_le
  have := r.eosf.toNat_le
  simp only [Rx.statusWord, toNat_append_eq_add, BitVec.toNat_ofBool, BitVec.ofNat_eq_ofNat, BitVec.toNat_ofNat]
  omega

theorem State.csumWord_eq (s : State) : s.csumWord = BitVec.ofNat 32 (s.csumA.toNat + 256 * s.csumB.toNat) := by
  apply BitVec.eq_of_toNat_eq
  have := s.csumA.isLt
  have := s.csumB.isLt
  simp only [State.csumWord, toNat_append_eq_add, BitVec.ofNat_eq_ofNat, BitVec.toNat_ofNat]
  omega

end Sys2Proof.Machine
end

section
/-! The registers' access conventions, and operand registers (10_state R24-R37, R45; 60_exceptions R260, R261). -/

namespace Sys2Proof.Machine

/-- A DST or RXBUF word inside its buffer is a window word that no write changes (20_memory R62, R63; log 10). -/
theorem busTarget_readOnly_window {c : Config} (hl : c.Legal) {off : Nat}
    (h : (0x20000 ≤ off ∧ off < 0x20000 + c.dstSize) ∨ (0x40000 ≤ off ∧ off < 0x40000 + c.rxbufSize)) :
    ∃ i, busTarget c off = some (.dst i) ∨ busTarget c off = some (.rxbuf i) := by
  obtain ⟨-, -, hdst, -, hrx, -⟩ := hl
  rcases h with h | h
  · exact ⟨_, .inl (busTarget_dst h.1 (by omega) (by omega))⟩
  · exact ⟨_, .inr (busTarget_rxbuf h.1 (by omega) (by omega))⟩

/-! The numbers of the codes (60_exceptions R260, R261; 10_state R35). -/

theorem ECode.toNat_bits : ∀ e ∈ [((.noError : ECode), 0), (.truncated, 1), (.badMagic, 2), (.checksumMismatch, 3),
    (.encodingError, 4)], e.1.bits.toNat = e.2 := by
  decide

theorem ESub.toNat_bits : ∀ b ∈ [((.noError : ESub), 0), (.rsvdBits, 1), (.illegalOpcode, 2), (.srcLenRange, 3),
    (.secretLen, 4), (.argRange, 5), (.frameLen, 6), (.pktShort, 7), (.pathOverrun, 8), (.outOvf, 9)],
    b.1.bits.toNat = b.2 := by
  decide

theorem RxState.toNat_bits : ∀ q ∈ [((.magic : RxState), 0), (.length, 1), (.body, 2), (.csum, 3), (.hold, 4),
    (.closed, 5)], q.1.bits.toNat = q.2 := by
  decide

/-! The outputs of the idle CU read exactly (10_state R29-R31). -/

theorem readTarget_result {s : State} (h : s.cuBusy = false) : readTarget s .result = .exact s.result := by
  simp [readTarget, h]

theorem readTarget_dstLen {s : State} (h : s.cuBusy = false) : readTarget s .dstLen = .exact (s.dstLen.setWidth 32) := by
  simp [readTarget, h]

theorem readTarget_csum {s : State} (h : s.cuBusy = false) : readTarget s .csum = .exact s.csumWord := by
  simp [readTarget, h]

/-- Settles O13: each offset's target is looked up, and the word it reads as is known by its value and its reserved bits. -/
theorem registerAccessConventions : Obligations.RegisterAccessConventions := by
  intro s rest v off hb
  refine ⟨fun hoff h => ?_, fun hoff h => ?_, ?_, ?_, fun ho hl hwin h => ?_, fun e he => ⟨fun b hb' h1 h2 h => ?_,
    fun q hq h1 h2 h => ?_⟩, ?_, ?_⟩
  · simp only [List.mem_cons, List.not_mem_nil, or_false] at hoff
    rcases hoff with rfl | rfl | rfl | rfl | rfl | rfl | rfl <;>
      exact step_write_nonOperand hb (by decide) rfl h rfl (by decide)
  · simp only [List.mem_cons, List.not_mem_nil, or_false] at hoff
    rcases hoff with rfl | rfl | rfl <;> exact step_read_exact hb (by decide) rfl h rfl
  · simp only [List.forall_mem_cons]
    exact ⟨fun h => ⟨_, step_read_exact hb (by decide) rfl h rfl, s.ctrlWord_reserved⟩,
      fun h => ⟨_, step_read_exact hb (by decide) rfl h rfl, s.statusWord_reserved⟩,
      fun h => ⟨_, step_read_exact hb (by decide) rfl h rfl, setWidth_and_eq_zero _ (by decide)⟩,
      fun h => ⟨_, step_read_exact hb (by decide) rfl h rfl, setWidth_and_eq_zero _ (by decide)⟩,
      fun h => ⟨_, step_read_exact hb (by decide) rfl h rfl, s.rx.statusWord_reserved⟩,
      fun h => ⟨_, step_read_exact hb (by decide) rfl h rfl, setWidth_and_eq_zero _ (by decide)⟩, by simp⟩
  · simp only [List.forall_mem_cons]
    exact ⟨fun hidle h => ⟨_, step_read_exact hb (by decide) rfl h (readTarget_dstLen hidle),
        setWidth_and_eq_zero _ (by decide)⟩,
      fun hidle h => ⟨_, step_read_exact hb (by decide) rfl h (readTarget_csum hidle), s.csumWord_reserved⟩, by simp⟩
  · obtain ⟨i, ht | ht⟩ := busTarget_readOnly_window hl hwin
    · exact step_write_nonOperand hb ho ht h rfl (by simp)
    · exact step_write_nonOperand hb ho ht h rfl (by simp)
  · rw [step_read_exact hb (by decide) rfl h rfl, s.statusWord_eq, h1, h2, ECode.toNat_bits e he, ESub.toNat_bits b hb']
  · rw [step_read_exact hb (by decide) rfl h rfl, s.rx.statusWord_eq, h1, h2, ECode.toNat_bits e he,
      RxState.toNat_bits q hq]
  · simp only [List.forall_mem_cons, BitVec.ofNat_toNat]
    exact ⟨fun h => s.ctrlWord_eq ▸ step_read_exact hb (by decide) rfl h rfl,
      fun h => step_read_exact hb (by decide) rfl h rfl, fun h => step_read_exact hb (by decide) rfl h rfl, by simp⟩
  · simp only [List.forall_mem_cons, BitVec.ofNat_toNat]
    exact ⟨fun hidle h => step_read_exact hb (by decide) rfl h (readTarget_result hidle),
      fun hidle h => step_read_exact hb (by decide) rfl h (readTarget_dstLen hidle),
      fun hidle h => s.csumWord_eq ▸ step_read_exact hb (by decide) rfl h (readTarget_csum hidle), by simp⟩

/-- Settles O14: the write sets the register's field, and the read gives it back under the mask of its width. -/
theorem operandRegistersHoldWhatIsWritten : Obligations.OperandRegistersHoldWhatIsWritten := by
  intro s rest v hb hidle
  simp only [List.forall_mem_cons]
  refine ⟨fun h => ⟨_, run_write_read hb (by decide) rfl h hidle rfl rfl rfl, ?_⟩,
    fun h => ⟨_, run_write_read hb (by decide) rfl h hidle rfl rfl rfl, ?_⟩,
    fun h => ⟨_, run_write_read hb (by decide) rfl h hidle rfl rfl rfl, ?_⟩,
    fun h => ⟨_, run_write_read hb (by decide) rfl h hidle rfl rfl rfl, ?_⟩, by simp⟩
  · exact ⟨congrArg some (setWidth_extractLsb'_eq_and v 17), rfl, absurd rfl, fun _ => rfl, fun _ => rfl, fun _ => rfl⟩
  · exact ⟨congrArg some (BitVec.and_allOnes (x := v)).symm, rfl, fun _ => rfl, absurd rfl, fun _ => rfl, fun _ => rfl⟩
  · exact ⟨congrArg some (BitVec.and_allOnes (x := v)).symm, rfl, fun _ => rfl, fun _ => rfl, absurd rfl, fun _ => rfl⟩
  · exact ⟨congrArg some (setWidth_extractLsb'_eq_and v 6), rfl, fun _ => rfl, fun _ => rfl, fun _ => rfl, absurd rfl⟩

end Sys2Proof.Machine
end

section
/-! Undefined bytes read as free values (10_state R40-R42, 00_scope R11; log 5, 10, 12). -/

namespace Sys2Proof.Machine

/-- The lanes of a word put together from four bytes. -/
theorem laneOf_busWord (b : Nat → Byte) {i : Nat} (hi : i < 4) : laneOf (busWord (b 0) (b 1) (b 2) (b 3)) i = b i := by
  unfold laneOf busWord
  match i, hi with
  | 0, _ => exact BitVec.extractLsb'_append_eq_right
  | 1, _ => exact (BitVec.extractLsb'_append_eq_of_le (by decide)).trans BitVec.extractLsb'_append_eq_right
  | 2, _ =>
    rw [BitVec.extractLsb'_append_eq_of_le (by decide), BitVec.extractLsb'_append_eq_of_le (by decide)]
    exact BitVec.extractLsb'_append_eq_right
  | 3, _ =>
    rw [BitVec.extractLsb'_append_eq_of_le (by decide), BitVec.extractLsb'_append_eq_of_le (by decide)]
    exact BitVec.extractLsb'_append_eq_left

/-- A window word with an undefined byte takes one fresh free word, and each undefined lane its lane of it. -/
theorem State.deliver_undefined (s : State) (at_ : Nat → Option Byte) (k : Nat) (h : ∃ i, i < 4 ∧ at_ (k + i) = none) :
    ∃ v, s.deliver (readLanes at_ k) = { s with lastRead := some v, draws := s.draws + 1 } ∧
      ∀ i, i < 4 → laneOf v i = (at_ (k + i)).getD (laneOf (Config.freeWord s.draws) i) := by
  refine ⟨_, ?_, fun i hi => laneOf_busWord (fun i => (at_ (k + i)).getD (laneOf (Config.freeWord s.draws) i)) hi⟩
  unfold readLanes State.deliver
  split
  case h_1 => contradiction
  case h_2 heq =>
    obtain ⟨i, hi, hnone⟩ := h
    injection heq with h0 h1 h2 h3
    interval_cases i <;> simp_all
  case h_3 heq =>
    injection heq with h0 h1 h2 h3
    subst h0 h1 h2 h3
    rfl

/-- The listed indexes are the defined bytes. -/
theorem Memory.isSome_byteAt_iff (m : Memory) (i : Nat) : (Memory.byteAt m i).isSome = true ↔ i ∈ m.map Prod.fst := by
  induction m with
  | nil => simp
  | cons c m ih =>
    rw [Memory.byteAt_cons]
    split_ifs with h <;> simp [h, ih]

/-- A word read of a window with an undefined byte: the defined bytes exactly, the others from one fresh free word. -/
theorem step_read_undefined {s : State} {rest : List Input} {off k : Nat} {t : Target} {at_ : Nat → Option Byte}
    (hb : s.cfg.base % 4 = 0) (ho : off % 4 = 0) (ht : busTarget s.cfg off = some t)
    (h : s.inputs = .read .word (s.cfg.base + off) :: rest) (hr : readTarget s t = readLanes at_ k)
    (hu : ∃ i, i < 4 ∧ at_ (k + i) = none) :
    ∃ v, step s = .next { s with inputs := rest, lastRead := some v, draws := s.draws + 1 } ∧
      ∀ i, i < 4 → v.extractLsb' (8 * i) 8 = (at_ (k + i)).getD ((Config.freeWord s.draws).extractLsb' (8 * i) 8) := by
  obtain ⟨v, hv, hlanes⟩ := State.deliver_undefined { s with inputs := rest } at_ k hu
  exact ⟨v, by rw [step_read_word hb ho ht h, hr, hv], hlanes⟩

/-! The window words by their byte index (20_memory R63). -/

theorem busTarget_src_add {c : Config} (hl : c.Legal) {k : Nat} (h : k < c.srcSize) :
    busTarget c (0x10000 + k) = some (.src k) := by
  obtain ⟨-, hsize, -⟩ := hl
  rw [busTarget_src (by omega) (by omega) (by omega), Nat.add_sub_cancel_left]

theorem busTarget_dst_add {c : Config} (hl : c.Legal) {k : Nat} (h : k < c.dstSize) :
    busTarget c (0x20000 + k) = some (.dst k) := by
  obtain ⟨-, -, hsize, -⟩ := hl
  rw [busTarget_dst (by omega) (by omega) (by omega), Nat.add_sub_cancel_left]

theorem busTarget_rxbuf_add {c : Config} (hl : c.Legal) {k : Nat} (h : k < c.rxbufSize) :
    busTarget c (0x40000 + k) = some (.rxbuf k) := by
  obtain ⟨-, -, -, -, hsize, -⟩ := hl
  rw [busTarget_rxbuf (by omega) (by omega) (by omega), Nat.add_sub_cancel_left]

theorem readTarget_dst {s : State} (h : s.cuBusy = false) (i : Nat) :
    readTarget s (.dst i) = readLanes (Memory.byteAt s.dst) i := by
  simp [readTarget, h]

/-- No RXBUF byte outside the body of a valid result is one a host may rely on (10_state R41). -/
theorem Rx.bodyAt_outside {r : Rx} {i : Nat} (h : r.valid = false ∨ r.len.toNat ≤ i) : r.bodyAt i = none := by
  refine if_neg fun ⟨hv, hlt⟩ => ?_
  rcases h with h | h
  · simp [hv] at h
  · omega

theorem Rx.bodyAt_inside {r : Rx} {i : Nat} (hv : r.valid = true) (h : i < r.len.toNat) :
    r.bodyAt i = Memory.byteAt r.buf i :=
  if_pos ⟨hv, h⟩

/-- Every body byte of a valid result is defined (10_state R42). -/
theorem Rx.Inv.body_defined {r : Rx} (hi : r.Inv) (hv : r.valid = true) {k : Nat} (hk : k < r.len.toNat) :
    (Memory.byteAt r.buf k).isSome = true := by
  rw [Memory.isSome_byteAt_iff, hi.stored_of_valid hv]
  exact List.mem_range.mpr hk

/-- Settles O16: the windows' reads are `step_read_undefined`, for RXBUF through `Rx.bodyAt`. -/
theorem undefinedBytesReadAsFreeValues : Obligations.UndefinedBytesReadAsFreeValues := by
  refine ⟨fun s rest k hl ho hidle => ?_, fun s k hi hv hk => hi.body_defined hv hk⟩
  have hb := hl.1
  simp only [Nat.add_assoc]
  refine ⟨fun hk h hu => ?_, fun hk h hu => ?_, fun hk h hout => ?_, fun hk h hv hlt hstraddle => ?_⟩
  · exact step_read_undefined hb (by omega) (busTarget_src_add hl hk) h rfl hu
  · exact step_read_undefined hb (by omega) (busTarget_dst_add hl hk) h (readTarget_dst hidle k) hu
  · have hfree : readTarget s (.rxbuf k) = .anyWord := by
      have hnone (i : Nat) (hi : k ≤ i) : s.rx.bodyAt i = none := Rx.bodyAt_outside (hout.imp_right (·.trans hi))
      simp [readTarget, readLanes, ReadValue.anyWord, hnone]
    rw [step_read_word hb (by omega) (busTarget_rxbuf_add hl hk) h, hfree, State.deliver_anyWord]
  · have hend : s.rx.bodyAt (k + (s.rx.len.toNat - k)) = none := Rx.bodyAt_outside (.inr (by omega))
    obtain ⟨v, hstep, hlanes⟩ := step_read_undefined hb (by omega) (busTarget_rxbuf_add hl hk) h rfl ⟨_, by omega, hend⟩
    refine ⟨v, hstep, fun i b hi hbyte => ?_, fun i hi hout => ?_⟩
    · rw [hlanes i (by omega), Rx.bodyAt_inside hv hi, hbyte, Option.getD_some]
    · rw [hlanes i hi, Rx.bodyAt_outside (.inr hout), Option.getD_none]

end Sys2Proof.Machine
end

section
/-! The bus: which accesses fault, what the windows' words hold, and that reads leave the block alone (20_memory R60-R63,
R68). -/

namespace Sys2Proof.Machine

/-- Settles O11: no such access resolves to a target, whatever its address. -/
theorem narrowOrMisalignedAccessFaults : Obligations.NarrowOrMisalignedAccessFaults := by
  intro s rest width addr v hbad h
  exact step_unmapped (h.imp_right And.left) (resolve_narrow_or_misaligned hbad)

@[simp] theorem State.deliver_inputs (s : State) (r : ReadValue) : (s.deliver r).inputs = s.inputs := by
  unfold State.deliver
  split <;> rfl

theorem State.deliver_isSome_lastRead (s : State) (r : ReadValue) : (s.deliver r).lastRead.isSome = true := by
  unfold State.deliver
  split <;> rfl

/-- Settles O18: a read that answers hands its value over, and `State.deliver` keeps the block. -/
theorem readsHaveNoSideEffect : Obligations.ReadsHaveNoSideEffect := by
  intro s t rest width addr h hstep
  rw [step_cons h] at hstep
  obtain ⟨tgt, -, rfl⟩ := hostRead_next hstep
  exact ⟨State.deliver_sameBlock { s with inputs := rest } _, State.deliver_inputs ..,
    Option.isSome_iff_ne_none.mp (State.deliver_isSome_lastRead ..)⟩

/-! The gaps of the address map (20_memory R63). -/

/-- No register stands between `SECRET_LEN` and `RX_CTRL`, or behind `RX_CSUM` (10_state R23). -/
theorem registerMap_lookup_gap {off : Nat} (h : (0x028 ≤ off ∧ off < 0x040) ∨ 0x054 ≤ off) :
    registerMap.lookup off = none := by
  have hlisted : ∀ r ∈ registerMap, r.1 < 0x028 ∨ (0x040 ≤ r.1 ∧ r.1 < 0x054) := by decide
  refine List.lookup_eq_none_iff.mpr fun r hr => bne_iff_ne.mpr ?_
  have := hlisted r hr
  omega

theorem busTarget_register_gap {c : Config} {off : Nat}
    (h : (0x028 ≤ off ∧ off < 0x040) ∨ (0x054 ≤ off ∧ off < 0x100)) : busTarget c off = none := by
  rw [busTarget, if_pos (by omega), registerMap_lookup_gap (by omega)]

theorem busTarget_below_src {c : Config} {off : Nat} (h1 : 0x120 ≤ off) (h2 : off < 0x10000) :
    busTarget c off = none := by
  rw [busTarget, if_neg (by omega), if_neg (by omega), if_pos h2]

theorem busTarget_behind_src {c : Config} {off : Nat} (h1 : 0x10000 + c.srcSize ≤ off) (h2 : off < 0x20000) :
    busTarget c off = none := by
  rw [busTarget, if_neg (by omega), if_neg (by omega), if_neg (by omega), if_pos h2, if_neg (by omega)]

theorem busTarget_behind_dst {c : Config} {off : Nat} (h1 : 0x20000 + c.dstSize ≤ off) (h2 : off < 0x40000) :
    busTarget c off = none := by
  rw [busTarget, if_neg (by omega), if_neg (by omega), if_neg (by omega), if_neg (by omega), if_pos h2,
    if_neg (by omega)]

theorem busTarget_behind_rxbuf {c : Config} {off : Nat} (h : 0x40000 + c.rxbufSize ≤ off) : busTarget c off = none := by
  rw [busTarget, if_neg (by omega), if_neg (by omega), if_neg (by omega), if_neg (by omega), if_neg (by omega),
    if_neg (show ¬ off - 0x40000 < c.rxbufSize by omega), ite_self]

/-- Settles O12: the offsets of each gap map to no target, and the ignored writes are those of
`registerAccessConventions`, for a word wholly inside its buffer. -/
theorem unmappedFaultsAndReadOnlyWindowsIgnoreWrites :
    Obligations.UnmappedFaultsAndReadOnlyWindowsIgnoreWrites := by
  intro s rest off v hb hl ho
  refine ⟨fun hgap h => ?_, fun hwin h => ?_⟩
  · have hnone : busTarget s.cfg off = none := by
      rcases hgap with h | h | ⟨h1, h2⟩ | ⟨h1, h2⟩ | ⟨h1, h2⟩ | h
      · exact busTarget_register_gap (.inl h)
      · exact busTarget_register_gap (.inr h)
      · exact busTarget_below_src h1 h2
      · exact busTarget_behind_src h1 h2
      · exact busTarget_behind_dst h1 h2
      · exact busTarget_behind_rxbuf h
    exact step_unmapped (h.imp_right And.left) ((resolve_word hb ho).trans hnone)
  · obtain ⟨-, -, -, -, hignored, -⟩ := registerAccessConventions s rest v off hb
    exact hignored ho hl (by omega) h

/-! The words of the windows (20_memory R60). -/

theorem busTarget_secret_add {c : Config} {k : Nat} (h : k < 32) : busTarget c (0x100 + k) = some (.secret k) := by
  rw [busTarget_secret (by omega) (by omega), Nat.add_sub_cancel_left]

/-- A word wholly inside SRC stores its four lanes, and no other byte. -/
theorem byteAt_putSrc {size i : Nat} (h : i + 4 ≤ size) (m : Memory) (v : Word) (j : Nat) :
    Memory.byteAt (putSrc size m i v) j =
      if i ≤ j ∧ j < i + 4 then some (laneOf v (j - i)) else Memory.byteAt m j := by
  have hlanes : [laneOf v 0, laneOf v 1, laneOf v 2, laneOf v 3].take (size - i) = (List.range 4).map (laneOf v) :=
    List.take_of_length_le (by simp only [List.length_cons, List.length_nil]; omega)
  rw [putSrc, hlanes, Memory.byteAt_putBytes, List.length_map, List.length_range]
  split_ifs with hj
  · rw [List.getElem?_map, List.getElem?_range (by omega)]
    rfl
  · rfl

/-- A word wholly inside SECRET stores its four lanes, and no other byte. -/
theorem getElem?_putSecret {i : Nat} (h : i + 4 ≤ 32) (secret : Vector Byte 32) (v : Word) (j : Nat) :
    (putSecret secret i v)[j]? = if i ≤ j ∧ j < i + 4 then some (laneOf v (j - i)) else secret[j]? := by
  simp only [putSecret, Vector.getElem?_setIfInBounds]
  by_cases hj : i ≤ j ∧ j < i + 4
  · obtain ⟨d, rfl⟩ := Nat.exists_eq_add_of_le hj.1
    have hd : d < 4 := by omega
    rw [if_pos hj, Nat.add_sub_cancel_left]
    interval_cases d <;> simp <;> omega
  · rw [if_neg hj, if_neg (by omega), if_neg (by omega), if_neg (by omega), if_neg (by omega)]

/-- A word read of a window whose four bytes are defined hands them to the host, the first in the lowest lane. -/
theorem step_read_defined {s : State} {rest : List Input} {off k : Nat} {t : Target} {at_ : Nat → Option Byte}
    {b0 b1 b2 b3 : Byte} (hb : s.cfg.base % 4 = 0) (ho : off % 4 = 0) (ht : busTarget s.cfg off = some t)
    (h : s.inputs = .read .word (s.cfg.base + off) :: rest) (hr : readTarget s t = readLanes at_ k)
    (h0 : at_ k = some b0) (h1 : at_ (k + 1) = some b1) (h2 : at_ (k + 2) = some b2) (h3 : at_ (k + 3) = some b3) :
    step s = .next { s with inputs := rest, lastRead := some (b3 ++ b2 ++ b1 ++ b0) } := by
  rw [step_read_word hb ho ht h, hr, readLanes, h0, h1, h2, h3]
  rfl

/-- Settles O15: each window's word is looked up by its byte index; the writes are `byteAt_putSrc` and `getElem?_putSecret`,
the reads `step_read_defined`. -/
theorem windowWordsAreLittleEndian : Obligations.WindowWordsAreLittleEndian := by
  intro s rest k v hl hk hidle
  have hb := hl.1
  simp only [Nat.add_assoc]
  refine ⟨fun hsize h => ?_, fun hsize h => ?_, fun b0 b1 b2 b3 h => ?_⟩
  · refine ⟨_, step_write_idle hb (by omega) (busTarget_src_add hl (by omega)) h hidle, rfl, fun i hi => ?_,
      fun j hj => ?_⟩
    · rw [byteAt_putSrc hsize, if_pos (by omega), Nat.add_sub_cancel_left, laneOf]
    · rw [byteAt_putSrc hsize, if_neg (by omega)]
  · refine ⟨_, step_write_idle hb (by omega) (busTarget_secret_add (by omega)) h hidle, rfl, fun i hi => ?_,
      fun j hj => ?_⟩
    · rw [getElem?_putSecret hsize, if_pos (by omega), Nat.add_sub_cancel_left, laneOf]
    · rw [getElem?_putSecret hsize, if_neg (by omega)]
  · rcases h with ⟨hsize, h, h0, h1, h2, h3⟩ | ⟨hsize, h, h0, h1, h2, h3⟩ | ⟨hv, hlen, h, h0, h1, h2, h3⟩ |
      ⟨hsize, h, h0, h1, h2, h3⟩
    · exact step_read_defined hb (by omega) (busTarget_src_add hl (by omega)) h rfl h0 h1 h2 h3
    · exact step_read_defined hb (by omega) (busTarget_dst_add hl (by omega)) h (readTarget_dst hidle k) h0 h1 h2 h3
    · have hbody (i : Nat) (hi : i < 4) := Rx.bodyAt_inside hv (show k + i < s.rx.len.toNat by omega)
      have hrx : k < s.cfg.rxbufSize := by
        obtain ⟨-, -, -, hrx, -⟩ := hl
        have := s.rx.len.isLt
        omega
      exact step_read_defined hb (by omega) (busTarget_rxbuf_add hl hrx) h rfl
        ((hbody 0 (by omega)).trans h0) ((hbody 1 (by omega)).trans h1) ((hbody 2 (by omega)).trans h2)
        ((hbody 3 (by omega)).trans h3)
    · exact step_read_defined hb (by omega) (busTarget_secret_add (by omega)) h rfl h0 h1 h2 h3

end Sys2Proof.Machine
end

section
/-! The encoding (30_encoding R80-R84): the decoder by the encoder's words, the words by their fields, and what a word that is
no instruction does. -/

namespace Sys2Proof.Machine

/-- A command word of an assigned opcode decodes to that opcode's command. -/
theorem decodeCmd_cmdWord {op : Byte} {i : Instr} (h : opcodeMap.lookup op = some i) :
    decodeCmd (cmdWord op) = .instr i :=
  decodeCmd_of_opcode (rsvdOf_cmdWord op) (by rwa [opcodeOf_cmdWord])

/-- A word decodes to a command only with RSVD 0 and that command's opcode (30_encoding R83). -/
theorem decodeCmd_eq_instr {w : Word} {i : Instr} (h : decodeCmd w = .instr i) :
    rsvdOf w = 0 ∧ opcodeMap.lookup (opcodeOf w) = some i := by
  by_cases hr : rsvdOf w = 0
  · cases hop : opcodeMap.lookup (opcodeOf w) with
    | none =>
      rw [decodeCmd_of_unassigned hr hop] at h
      cases h
    | some j =>
      rw [decodeCmd_of_opcode hr hop] at h
      cases h
      exact ⟨hr, rfl⟩
  · rw [decodeCmd_of_rsvd hr] at h
    cases h

/-- The decoder's answer by the action bits: RST, then ACK, then EOS (30_encoding R84, 41_frame_codec R136). -/
theorem decodeRxCtrl_rxCtrlWord (ign : BitVec 29) (rst eos ack : Bool) :
    decodeRxCtrl (rxCtrlWord ign rst eos ack) =
      if rst then .instr (.rxRst ack eos ign)
      else if ack then .instr (.rxAck eos ign)
      else if eos then .instr (.rxEos false ign)
      else .reject .noAction := by
  simp [decodeRxCtrl]

/-- An RX_DATA word is its two fields (10_state R34). -/
theorem rxDataWord_of_fields (w : Word) : (w.extractLsb' 8 24 ++ w.extractLsb' 0 8 : BitVec 32) = w := by
  rw [BitVec.extractLsb'_append_extractLsb'_eq_extractLsb' (by decide)]
  exact BitVec.extractLsb'_eq_self

/-- Settles O1: each port's decoder by the encoder's word, `decodeCmd_cmdWord`, `decodeRxCtrl_rxCtrlWord` and
`rxDataWord_fields`. -/
theorem decodeInvertsEncode : Obligations.DecodeInvertsEncode := by
  intro i hwf
  cases i with
  | rxByte x ign =>
    obtain ⟨hx, hign⟩ := rxDataWord_fields x ign
    simp only [encode, decode, decodeRxData, hx, hign]
  | rxAck eos ign => exact decodeRxCtrl_rxCtrlWord ign false eos true
  | rxEos ack ign =>
    cases ack with
    | false => exact decodeRxCtrl_rxCtrlWord ign false true false
    | true => cases hwf
  | rxRst ack eos ign => exact decodeRxCtrl_rxCtrlWord ign true eos ack
  | _ => exact decodeCmd_cmdWord rfl

/-- Settles O2: a word is put together from its fields, and the decoder's answer on them is the instruction of that word. -/
theorem encodeInvertsDecode : Obligations.EncodeInvertsDecode := by
  intro p w i h
  cases p with
  | cmd =>
    obtain ⟨hrsvd, hop⟩ := decodeCmd_eq_instr h
    obtain ⟨henc, hwf⟩ := opcodeMap_lookup hop
    exact ⟨hwf, by rw [henc, cmdWord_of_fields hrsvd]⟩
  | rxCtrl =>
    have hw := rxCtrlWord_of_fields w
    generalize w.extractLsb' 3 29 = ign, w[2] = rst, w[1] = eos, w[0] = ack at hw
    subst hw
    rw [decode, decodeRxCtrl_rxCtrlWord] at h
    split_ifs at h with hrst hack heos <;> cases h
    · exact ⟨rfl, by rw [hrst]; rfl⟩
    · exact ⟨rfl, by rw [hack, Bool.eq_false_iff.mpr hrst]; rfl⟩
    · exact ⟨rfl, by rw [heos, Bool.eq_false_iff.mpr hrst, Bool.eq_false_iff.mpr hack]; rfl⟩
  | rxData =>
    cases h
    exact ⟨rfl, congrArg (Port.rxData, ·) (rxDataWord_of_fields w)⟩

/-- Settles O3: the fields of each literal word, evaluated. -/
theorem writtenWordsDecode : Obligations.WrittenWordsDecode := by
  unfold Obligations.WrittenWordsDecode
  decide

/-! Words that are no instruction. -/

theorem completeCommand_of_reject {s : State} {e : DecodeError} (h : decodeCmd s.cuCmd = .reject e) :
    completeCommand s = .next (s.raiseError (rejectCode e)) := by
  rw [completeCommand, decode, h]

/-- The assigned opcodes, in the order of the map (30_encoding R82). -/
theorem opcodeMap_opcodes : opcodeMap.map Prod.fst =
    [0x01, 0x02, 0x03, 0x04, 0x10, 0x20, 0x21, 0x22, 0x30, 0x31, 0x40, 0x41] := rfl

theorem opcodeMap_lookup_eq_none {op : Byte} (h : op ∉ opcodeMap.map Prod.fst) : opcodeMap.lookup op = none :=
  List.lookup_eq_none_iff.mpr fun _ hp => bne_iff_ne.mpr fun heq => h (heq ▸ List.mem_map_of_mem hp)

/-- Settles O4: the decoder rejects such a word, and a rejected word raises its sub-code. -/
theorem illegalCommandWordsCompleteWithError : Obligations.IllegalCommandWordsCompleteWithError := by
  refine fun s => ⟨fun hrsvd => ?_, fun hrsvd hop => ?_⟩
  · exact completeCommand_of_reject (decodeCmd_of_rsvd hrsvd)
  · rw [← opcodeMap_opcodes] at hop
    exact completeCommand_of_reject (decodeCmd_of_unassigned hrsvd (opcodeMap_lookup_eq_none hop))

/-- An RX_CTRL word with bits 2:0 all 0 asks for no action (30_encoding R84). -/
theorem decodeRxCtrl_of_no_action {v : Word} (h : v.extractLsb' 0 3 = 0) : decodeRxCtrl v = .reject .noAction := by
  have bit (k : Nat) (hk : k < 3) : v.getLsbD k = false := by
    simpa [hk] using congrArg (BitVec.getLsbD · k) h
  simp only [decodeRxCtrl, bit 0 (by decide), bit 1 (by decide), bit 2 (by decide), Bool.false_eq_true, if_false]

/-- Settles O6: no hazard stands in the way of a write to an RX port, which runs the word the decoder reads. -/
theorem stepRunsWrittenRxWord : Obligations.StepRunsWrittenRxWord := by
  intro s rest v hb
  refine ⟨fun i h hdec => ?_, fun i h hdec => ?_, fun h hbits => ?_⟩
  · rw [step_write_nonOperand (t := .rxCtrl) hb (by decide) rfl h rfl (by decide), writeTarget, hdec, runRxWord]
  · rw [step_write_nonOperand (t := .rxData) hb (by decide) rfl h rfl (by decide), writeTarget, hdec, runRxWord]
  · rw [step_write_nonOperand (t := .rxCtrl) hb (by decide) rfl h rfl (by decide), writeTarget, decode,
      decodeRxCtrl_of_no_action hbits, runRxWord]

end Sys2Proof.Machine
end

section
/-! The outputs of the commands (30_encoding R81): each completes with an error, or writes its outputs and finishes. -/

namespace Sys2Proof.Machine

/-- The header commands and `CHASH` write `RESULT` alone. -/
theorem exec_next_of_resultCommand {i : Instr} {s t : State} (hi : i ∈ [.hdrPack, .hdrUnpack, .chash])
    (h : exec i s = .next t) : (∃ sub, t = s.raiseError sub) ∨ ∃ v, t = (s.setResult v).finish := by
  simp only [List.mem_cons, List.not_mem_nil, or_false] at hi
  rcases hi with rfl | rfl | rfl
  · exact (execHdrPack_next h).imp_left (⟨_, ·⟩)
  · exact (execHdrUnpack_next h).imp_left (⟨_, ·⟩)
  · exact (execChash_next h).imp_left (⟨_, ·⟩)

/-- The checksum commands but `CSUM_COMPUTE` write `CSUM` and `RESULT`. -/
theorem exec_next_of_csumCommand {i : Instr} {s t : State} (hi : i ∈ [.csumClr, .csumAcc, .csumVerify])
    (h : exec i s = .next t) :
    (∃ sub, t = s.raiseError sub) ∨ ∃ ab v, t = ((s.setCsum ab).setResult v).finish := by
  simp only [List.mem_cons, List.not_mem_nil, or_false] at hi
  rcases hi with rfl | rfl | rfl
  · cases h
    exact .inr ⟨_, _, rfl⟩
  · rcases execCsumAcc_next h with rfl | ⟨-, rfl⟩
    exacts [.inl ⟨_, rfl⟩, .inr ⟨_, _, rfl⟩]
  · rcases execCsumVerify_next h with rfl | rfl | ⟨-, v, rfl⟩
    exacts [.inl ⟨_, rfl⟩, .inl ⟨_, rfl⟩, .inr ⟨_, v, rfl⟩]

/-- `CSUM_COMPUTE` writes `CSUM`, `RESULT` and two bytes of DST. -/
theorem exec_next_of_csumCompute {s t : State} (h : exec .csumCompute s = .next t) :
    (∃ sub, t = s.raiseError sub) ∨
      ∃ ab v bs, bs.length < 2 ^ 18 ∧ t = (((s.setCsum ab).setResult v).putDst bs).finish := by
  rcases execCsumCompute_next h with rfl | rfl | ⟨-, -, rfl⟩
  exacts [.inl ⟨_, rfl⟩, .inl ⟨_, rfl⟩, .inr ⟨_, _, _, by simp, rfl⟩]

/-- The frame, packet and encryption commands write `RESULT` and DST, and no more bytes than `DST_LEN` can count. -/
theorem exec_next_of_resultDstCommand {i : Instr} {s t : State} (hi : i ∈ [.frameEncode, .pktParse, .encMac])
    (h : exec i s = .next t) :
    (∃ sub, t = s.raiseError sub) ∨
      ∃ v bs, bs.length < 2 ^ 18 ∧ t = ((s.setResult v).putDst bs).finish := by
  have hlen := s.srcLen.isLt
  simp only [List.mem_cons, List.not_mem_nil, or_false] at hi
  rcases hi with rfl | rfl | rfl
  · have hbs : (frameEncode s.srcData).length < 2 ^ 18 := by
      simp only [length_frameEncode, State.srcData, State.length_srcBytes]
      omega
    rcases execFrameEncode_next h with rfl | rfl | rfl | ⟨-, -, -, v, rfl⟩
    exacts [.inl ⟨_, rfl⟩, .inl ⟨_, rfl⟩, .inl ⟨_, rfl⟩, .inr ⟨v, _, hbs, rfl⟩]
  · rcases execPktParse_next h with rfl | rfl | rfl | rfl | ⟨-, v, payload, -, hbs, rfl⟩
    exacts [.inl ⟨_, rfl⟩, .inl ⟨_, rfl⟩, .inl ⟨_, rfl⟩, .inl ⟨_, rfl⟩, .inr ⟨v, payload, by omega, rfl⟩]
  · have hbs : (encryptThenMac s.secretBytes s.srcData).length < 2 ^ 18 := by
      have hle := length_encryptThenMac_le s.secretBytes s.srcData
      obtain ⟨-, -, hceil⟩ := ceil16_spec s.srcData.length
      simp only [State.srcData, State.length_srcBytes] at hle hceil ⊢
      omega
    rcases execEncMac_next h with rfl | rfl | rfl | ⟨-, -, -, rfl⟩
    exacts [.inl ⟨_, rfl⟩, .inl ⟨_, rfl⟩, .inl ⟨_, rfl⟩, .inr ⟨_, _, hbs, rfl⟩]

/-- The group-text commands write DST alone, and no more bytes than `DST_LEN` can count. -/
theorem exec_next_of_gtxtCommand {i : Instr} {s t : State} (hi : i ∈ [.gtxtBuild, .gtxtPacket])
    (h : exec i s = .next t) :
    (∃ sub, t = s.raiseError sub) ∨ ∃ bs, bs.length < 2 ^ 18 ∧ t = (s.putDst bs).finish := by
  have hlen := s.srcLen.isLt
  simp only [List.mem_cons, List.not_mem_nil, or_false] at hi
  rcases hi with rfl | rfl
  · rcases execGtxtBuild_next h with rfl | rfl | rfl | ⟨-, harg, -, rfl⟩
    exacts [.inl ⟨_, rfl⟩, .inl ⟨_, rfl⟩, .inl ⟨_, rfl⟩,
      .inr ⟨_, by simp only [length_groupText, State.length_srcBytes]; omega, rfl⟩]
  · have hle := length_groupTextPacket_le s.secretBytes (s.srcBytes 0 s.arg1.toNat)
      (s.srcBytes s.arg1.toNat s.srcLen.toNat) s.arg0
    obtain ⟨-, -, hceil⟩ := ceil16_spec
      ((s.srcBytes 0 s.arg1.toNat).length + (s.srcBytes s.arg1.toNat s.srcLen.toNat).length + 7)
    simp only [State.length_srcBytes] at hle hceil
    rcases execGtxtPacket_next h with rfl | rfl | rfl | rfl | ⟨-, -, harg, -, rfl⟩
    exacts [.inl ⟨_, rfl⟩, .inl ⟨_, rfl⟩, .inl ⟨_, rfl⟩, .inl ⟨_, rfl⟩, .inr ⟨_, by omega, rfl⟩]

/-- Writing DST leaves every byte that `DST_LEN` does not count. -/
theorem State.byteAt_putDst_behind {s : State} {bs : List Byte} (hlen : bs.length < 2 ^ 18) {k : Nat}
    (hk : (s.putDst bs).dstLen.toNat ≤ k) : Memory.byteAt (s.putDst bs).dst k = Memory.byteAt s.dst k := by
  rw [State.putDst_dstLen, BitVec.toNat_ofNat, Nat.mod_eq_of_lt hlen] at hk
  rw [State.byteAt_putDst, if_neg (by omega)]

/-- A command with DST output leaves the bytes of DST behind its output, and after an error all of them. -/
theorem exec_dst_frame {i : Instr} {s t : State}
    (hi : i ∈ [.csumCompute, .frameEncode, .pktParse, .encMac, .gtxtBuild, .gtxtPacket]) (h : exec i s = .next t)
    {k : Nat} (hk : t.ecode = .noError → t.dstLen.toNat ≤ k) : Memory.byteAt t.dst k = Memory.byteAt s.dst k := by
  have hcases : i = .csumCompute ∨ i ∈ [.frameEncode, .pktParse, .encMac] ∨ i ∈ [.gtxtBuild, .gtxtPacket] := by
    simpa [or_assoc] using hi
  rcases hcases with rfl | hi | hi
  · rcases exec_next_of_csumCompute h with ⟨_, rfl⟩ | ⟨ab, v, bs, hlen, rfl⟩
    exacts [rfl, State.byteAt_putDst_behind (s := (s.setCsum ab).setResult v) hlen (hk rfl)]
  · rcases exec_next_of_resultDstCommand hi h with ⟨_, rfl⟩ | ⟨v, bs, hlen, rfl⟩
    exacts [rfl, State.byteAt_putDst_behind (s := s.setResult v) hlen (hk rfl)]
  · rcases exec_next_of_gtxtCommand hi h with ⟨_, rfl⟩ | ⟨bs, hlen, rfl⟩
    exacts [rfl, State.byteAt_putDst_behind hlen (hk rfl)]

/-- Settles O54: each group of commands ends in an error or in the updates its lemma names, and each update is a record
update of its own fields; the bytes of DST are `exec_dst_frame`. -/
theorem commandsWriteOnlyTheirOutputs : Obligations.CommandsWriteOnlyTheirOutputs := by
  intro s t i h
  refine ⟨fun hi => ?_, fun hi => ?_, fun hi => ?_, fun hi => ?_, fun hi => ?_, fun hi k => exec_dst_frame hi h⟩
  · rcases exec_next_of_resultCommand hi h with ⟨_, rfl⟩ | ⟨_, rfl⟩ <;> exact ⟨rfl, fun _ => rfl⟩
  · rcases exec_next_of_csumCommand hi h with ⟨_, rfl⟩ | ⟨_, _, rfl⟩ <;> exact ⟨rfl, fun _ => rfl⟩
  · subst hi
    rcases exec_next_of_csumCompute h with ⟨_, rfl⟩ | ⟨_, _, _, -, rfl⟩ <;> rfl
  · rcases exec_next_of_resultDstCommand hi h with ⟨_, rfl⟩ | ⟨_, _, -, rfl⟩ <;> rfl
  · rcases exec_next_of_gtxtCommand hi h with ⟨_, rfl⟩ | ⟨_, -, rfl⟩ <;> rfl

end Sys2Proof.Machine
end

section
/-! The Fletcher fold (40_checksum R100, R106-R108): it goes over a concatenation part by part, its accumulators are the sum
and the weighted sum of the bytes mod 255, and it sees a byte mod 255 only. -/

namespace Sys2Proof.Machine

theorem fletcher_append (a b : Byte) (d e : List Byte) :
    fletcher a b (d ++ e) = fletcher (fletcher a b d).1 (fletcher a b d).2 e :=
  List.foldl_append

/-- The bytes weighted by how many bytes there are from each one on (40_checksum R108). -/
def weightedSum (d : List Byte) : Nat :=
  (d.mapIdx fun i x => (d.length - i) * x.toNat).sum

theorem weightedSum_cons (x : Byte) (d : List Byte) :
    weightedSum (x :: d) = (d.length + 1) * x.toNat + weightedSum d := by
  simp [weightedSum, List.mapIdx_cons]

/-- The closed form of the fold from any accumulators (40_checksum R108). -/
theorem fletcher_modEq (a b : Byte) (d : List Byte) :
    (fletcher a b d).1.toNat ≡ a.toNat + (d.map BitVec.toNat).sum [MOD 255] ∧
      (fletcher a b d).2.toNat ≡ b.toNat + d.length * a.toNat + weightedSum d [MOD 255] := by
  induction d generalizing a b with
  | nil => simp [weightedSum, Nat.ModEq.refl]
  | cons x d ih =>
    obtain ⟨ih1, ih2⟩ := ih (fletcherStep (a, b) x).1 (fletcherStep (a, b) x).2
    obtain ⟨step1, step2⟩ := fletcherStep_toNat (a, b) x
    have ha : (fletcherStep (a, b) x).1.toNat ≡ a.toNat + x.toNat [MOD 255] := step1 ▸ Nat.mod_modEq _ _
    have hb : (fletcherStep (a, b) x).2.toNat ≡ b.toNat + (a.toNat + x.toNat) [MOD 255] :=
      step2 ▸ (Nat.mod_modEq _ _).trans ((Nat.mod_modEq _ _).add_left _)
    rw [fletcher_cons]
    constructor
    · calc _ ≡ _ [MOD 255] := ih1
        _ ≡ a.toNat + x.toNat + (d.map BitVec.toNat).sum [MOD 255] := ha.add_right _
        _ = _ := by rw [List.map_cons, List.sum_cons, Nat.add_assoc]
    · calc _ ≡ _ [MOD 255] := ih2
        _ ≡ b.toNat + (a.toNat + x.toNat) + d.length * (a.toNat + x.toNat) + weightedSum d [MOD 255] :=
          (hb.add (ha.mul_left _)).add_right _
        _ = _ := by rw [weightedSum_cons, List.length_cons]; ring

/-- A checksum's accumulators are in 0..254 (40_checksum R106). -/
theorem fletcher_zero_le (d : List Byte) : (fletcher 0 0 d).1.toNat ≤ 254 ∧ (fletcher 0 0 d).2.toNat ≤ 254 :=
  fletcher_le (by decide) (by decide) d

/-- Both accumulators from 0 (40_checksum R108). -/
theorem fletcher_zero_toNat (d : List Byte) :
    (fletcher 0 0 d).1.toNat = (d.map BitVec.toNat).sum % 255 ∧ (fletcher 0 0 d).2.toNat = weightedSum d % 255 := by
  obtain ⟨h1, h2⟩ := fletcher_modEq 0 0 d
  obtain ⟨hlt1, hlt2⟩ := fletcher_zero_le d
  rw [Nat.ModEq, Nat.mod_eq_of_lt (Nat.lt_succ_of_le hlt1)] at h1
  rw [Nat.ModEq, Nat.mod_eq_of_lt (Nat.lt_succ_of_le hlt2)] at h2
  exact ⟨by simpa using h1, by simpa using h2⟩

/-- The fold sees a byte mod 255 only. -/
theorem fletcherStep_congr {x y : Byte} (h : x.toNat % 255 = y.toNat % 255) (ab : Byte × Byte) :
    fletcherStep ab x = fletcherStep ab y := by
  have hsum : (ab.1.toNat + x.toNat) % csumMod = (ab.1.toNat + y.toNat) % csumMod := Nat.ModEq.add_left _ h
  simp only [fletcherStep, hsum]

theorem checksum_eq_checksum_iff (d e : List Byte) : checksum d = checksum e ↔ fletcher 0 0 d = fletcher 0 0 e := by
  simp [checksum, checksumBytes, Prod.ext_iff, and_comm]

/-- A replaced byte keeps the checksum exactly when it is the same mod 255: the first accumulator tells them apart. -/
theorem checksum_replace_iff (l r : List Byte) (x y : Byte) :
    checksum (l ++ y :: r) = checksum (l ++ x :: r) ↔ y.toNat % 255 = x.toNat % 255 := by
  rw [checksum_eq_checksum_iff]
  constructor
  · intro h
    have hsum := congrArg (fun ab : Byte × Byte => ab.1.toNat) h
    simp only [(fletcher_zero_toNat _).1, List.map_append, List.map_cons, List.sum_append, List.sum_cons] at hsum
    omega
  · intro h
    simp only [fletcher_append, fletcher_cons, fletcherStep_congr h]

/-- The bytes `00` and `FF` are the only two that are the same mod 255. -/
theorem byte_mod_eq_iff (x y : Byte) :
    y.toNat % 255 = x.toNat % 255 ↔ y = x ∨ (y = 0x00 ∧ x = 0xFF) ∨ (y = 0xFF ∧ x = 0x00) := by
  simp only [← BitVec.toNat_inj, BitVec.ofNat_eq_ofNat, BitVec.toNat_ofNat]
  omega

/-- Settles O26: the closed form is `fletcher_zero_toNat`, and a replaced byte is seen mod 255. -/
theorem checksumClosedFormAndDetection : Obligations.ChecksumClosedFormAndDetection := by
  intro d
  obtain ⟨ha, hb⟩ := fletcher_zero_toNat d
  refine ⟨ha, hb, fun i y hi => ?_⟩
  have hd : d.take i ++ d[i] :: d.drop (i + 1) = d := by simp
  rw [List.set_eq_take_append_cons_drop, if_pos hi, ← byte_mod_eq_iff, ← checksum_replace_iff (d.take i), hd]

end Sys2Proof.Machine
end

section
/-! The checksum commands (40_checksum R102-R105, R109): each command's completion step on operands that are ready, and where
it stops on others. -/

namespace Sys2Proof.Machine

/-- An assigned opcode is its command's encoding, and the reserved bits are looked at before it (30_encoding R80, R83). -/
theorem commandEncoding_of_lookup {op : Byte} {i : Instr} (h : opcodeMap.lookup op = some i) : CommandEncoding op i :=
  ⟨decodeCmd_cmdWord h, fun _ _ hr => completeCommand_of_reject (decodeCmd_of_rsvd hr)⟩

theorem consumeSrc_srcData {s : State} (h : s.SrcDefined 0 s.srcLen.toNat) (k : List Byte → Result) :
    consumeSrc s 0 s.srcLen.toNat k = k s.srcData := by
  rw [← Nat.zero_add s.srcLen.toNat] at h
  rw [consumeSrc_of_defined h, Nat.zero_add, State.srcData]

/-- A range of SRC that is not all defined faults at a byte of it that is not (10_state R42). -/
theorem consumeSrc_faultsAtUndefined {s : State} {n : Nat} (h : ¬ s.SrcDefined 0 n) (k : List Byte → Result) :
    s.FaultsAtUndefined 0 n (consumeSrc s 0 n k) := by
  rcases consumeSrc_cases s 0 n k with ⟨j, ⟨hle, hlt, hnone, -⟩, hfault⟩ | ⟨hdef, -⟩
  · exact ⟨j, hle, Nat.zero_add n ▸ hlt, hnone, hfault⟩
  · exact absurd (Nat.zero_add n ▸ hdef) h

/-! The 16-bit value of a checksum and its bytes. -/

theorem checksumWord_toNat (ab : Byte × Byte) : (checksumWord ab).toNat = ab.2.toNat * 256 + ab.1.toNat := by
  have := ab.1.isLt
  have := ab.2.isLt
  rw [checksumWord, pairWord, BitVec.toNat_setWidth, toNat_append_eq_add]
  omega

theorem checksumWord_lt (ab : Byte × Byte) : (checksumWord ab).toNat < 0x10000 := by
  have := ab.1.isLt
  have := ab.2.isLt
  rw [checksumWord_toNat]
  omega

theorem checksumWord_eq_append (ab : Byte × Byte) : checksumWord ab = (0 : BitVec 16) ++ ab.2 ++ ab.1 := by
  apply BitVec.eq_of_toNat_eq
  change _ = ((0 : BitVec 16) ++ ab.2 ++ ab.1).toNat
  rw [checksumWord_toNat, toNat_append_eq_add, toNat_append_eq_add]
  simp

/-- The two bytes of a checksum's value are the checksum's (40_checksum R101). -/
theorem checksumWord_bytes (ab : Byte × Byte) :
    (checksumWord ab).extractLsb' 8 8 = ab.2 ∧ (checksumWord ab).extractLsb' 0 8 = ab.1 := by
  have := ab.1.isLt
  have := ab.2.isLt
  constructor <;> apply BitVec.eq_of_toNat_eq <;>
    rw [BitVec.extractLsb'_toNat, checksumWord_toNat, Nat.shiftRight_eq_div_pow] <;> omega

/-- The reserved bits 31:16 of ARG0 are 0 exactly when its value fits 16 bits (40_checksum R105). -/
theorem extractLsb'_high_eq_zero_iff (v : Word) : v.extractLsb' 16 16 = 0 ↔ v.toNat < 0x10000 := by
  have := v.isLt
  rw [← BitVec.toNat_inj, BitVec.extractLsb'_toNat, Nat.shiftRight_eq_div_pow]
  change _ = 0 ↔ _
  omega

theorem checkArg_high_pass {s : State} (h : s.arg0.toNat < 0x10000) (k : Result) :
    checkArg s (s.arg0.extractLsb' 16 16 != 0) k = k :=
  checkArg_pass s (bne_eq_false_iff_eq.mpr ((extractLsb'_high_eq_zero_iff _).mpr h)) k

theorem checkArg_high_fail {s : State} (h : 0x10000 ≤ s.arg0.toNat) (k : Result) :
    checkArg s (s.arg0.extractLsb' 16 16 != 0) k = .next (s.raiseError .argRange) :=
  checkArg_fail s (bne_iff_ne.mpr fun h0 => Nat.not_lt.mpr h ((extractLsb'_high_eq_zero_iff _).mp h0)) k

/-! What each command does on operands that are ready. -/

theorem execCsumAcc_of_ready {s : State} (h : s.SrcReady) :
    execCsumAcc s = .next ((s.setCsum (fletcher s.csumA s.csumB s.srcData)).setResult
      (checksumWord (fletcher s.csumA s.csumB s.srcData))).finish := by
  rw [execCsumAcc, checkSrcLen_pass h.1, consumeSrc_srcData h.2]

theorem execCsumCompute_of_ready {s : State} (h : s.SrcReady) (hd : 2 ≤ s.cfg.dstSize) :
    execCsumCompute s = .next (((s.setCsum (fletcher 0 0 s.srcData)).setResult
      (checksumWord (fletcher 0 0 s.srcData))).putDst (checksum s.srcData)).finish := by
  rw [execCsumCompute, checkSrcLen_pass h.1, checkOut_pass hd, consumeSrc_srcData h.2, checksum]

/-- ARG0 is the 16-bit value of SRC's checksum (40_checksum R105). -/
abbrev State.ArgMatches (s : State) : Prop :=
  s.arg0.extractLsb' 8 8 = (fletcher 0 0 s.srcData).2 ∧ s.arg0.extractLsb' 0 8 = (fletcher 0 0 s.srcData).1

theorem execCsumVerify_of_ready {s : State} (h : s.SrcReady) (ha : s.arg0.toNat < 0x10000) :
    execCsumVerify s = .next ((s.setCsum (fletcher 0 0 s.srcData)).setResult (if s.ArgMatches then 1 else 0)).finish := by
  rw [execCsumVerify, checkSrcLen_pass h.1, checkArg_high_pass ha,
    consumeSrc_srcData h.2]

/-- Settles O21: both halves are `CSUM_CLR`'s own, its completion step and its encoding. -/
theorem csumClrClearsAccumulators : Obligations.CsumClrClearsAccumulators :=
  ⟨fun _ => rfl, commandEncoding_of_lookup rfl⟩

/-- Settles O22: on ready operands the equation of `execCsumAcc_of_ready`, else the first check or byte that fails. -/
theorem csumAccFoldsSrcIntoAccumulators : Obligations.CsumAccFoldsSrcIntoAccumulators := by
  refine ⟨fun s => ⟨fun hready => ?_, fun hlen => checkSrcLen_fail hlen _, fun hlen hundef => ?_⟩,
    commandEncoding_of_lookup rfl⟩
  · rw [exec, execCsumAcc_of_ready hready, checksumWord_eq_append]
    rfl
  · rw [exec, execCsumAcc, checkSrcLen_pass hlen]
    exact consumeSrc_faultsAtUndefined hundef _

/-- Settles O23: on ready operands the equation of `execCsumCompute_of_ready`, else the first check or byte that fails. -/
theorem csumComputeWritesChecksum : Obligations.CsumComputeWritesChecksum := by
  refine ⟨fun s => ⟨fun hready hdst => ?_, fun hlen => checkSrcLen_fail hlen _, fun hlen hdst => ?_,
    fun hlen hdst hundef => ?_⟩, commandEncoding_of_lookup rfl⟩
  · refine ⟨_, execCsumCompute_of_ready hready hdst, ?_, ?_, ?_, fun k hk => ?_⟩
    · rw [checksumWord_eq_append]
      rfl
    · rw [State.finish_dst, State.byteAt_putDst]
      rfl
    · rw [State.finish_dst, State.byteAt_putDst]
      rfl
    · rw [State.finish_dst, State.byteAt_putDst, length_checksum, if_neg (Nat.not_lt.mpr hk)]
      rfl
  · rw [exec, execCsumCompute, checkSrcLen_pass hlen, checkOut_fail hdst]
  · rw [exec, execCsumCompute, checkSrcLen_pass hlen, checkOut_pass hdst]
    exact consumeSrc_faultsAtUndefined hundef _

/-- Settles O24: on ready operands the equation of `execCsumVerify_of_ready`, else the first check or byte that fails. -/
theorem csumVerifyComparesChecksum : Obligations.CsumVerifyComparesChecksum := by
  refine ⟨fun s => ⟨fun hready harg => execCsumVerify_of_ready hready harg, fun hlen => checkSrcLen_fail hlen _,
    fun hlen harg => ?_, fun hlen harg hundef => ?_⟩, commandEncoding_of_lookup rfl⟩
  · rw [exec, execCsumVerify, checkSrcLen_pass hlen, checkArg_high_fail harg]
  · rw [exec, execCsumVerify, checkSrcLen_pass hlen, checkArg_high_pass harg]
    exact consumeSrc_faultsAtUndefined hundef _

/-- Settles O25: `fletcher_append` for the fold and the two commands' CSUM; the decoder's part is in its invariant. -/
theorem runningSumEqualsOneShot : Obligations.RunningSumEqualsOneShot := by
  refine ⟨fletcher_append, fun u u' v v' w w' ha hb hu hu' hva hvb hv hv' hw hd hcat hw' => ?_, fun s hi hst => ?_⟩
  · cases (execCsumAcc_of_ready hu).symm.trans hu'
    cases (execCsumAcc_of_ready hv).symm.trans hv'
    cases (execCsumCompute_of_ready hw hd).symm.trans hw'
    simp only [State.csumWord, State.finish_csumA, State.finish_csumB, State.setResult_csumA, State.setResult_csumB,
      State.setCsum_csumA, State.setCsum_csumB, State.putDst_csumA, State.putDst_csumB] at hva hvb ⊢
    rw [hva, hvb, ha, hb, hcat, fletcher_append]
  · obtain ⟨-, -, -, -, -, hsum⟩ := (Rx.inv_iff_of_csum hst).mp hi
    rw [checksum, ← hsum, checksumBytes]

/-- Settles O27: the RESULT of `CSUM_COMPUTE` is the 16-bit value of the checksum, whose bytes `CSUM_VERIFY` compares. -/
theorem verifyOfComputeIsTrue : Obligations.VerifyOfComputeIsTrue := by
  intro s t u hs hd ht hcfg hlen hsrc harg
  cases (execCsumCompute_of_ready hs hd).symm.trans ht
  have harg : u.arg0 = checksumWord (fletcher 0 0 s.srcData) := harg
  have hdata : u.srcData = s.srcData := by simp only [State.srcData, State.srcBytes, hsrc, hlen]
  have hready : u.SrcReady := by
    simpa only [State.SrcReady, State.SrcDefined, hcfg, hlen, hsrc] using hs
  have hmatch : u.ArgMatches := by
    rw [State.ArgMatches, harg, hdata]
    exact checksumWord_bytes _
  exact ⟨_, execCsumVerify_of_ready hready (harg ▸ checksumWord_lt _), if_pos hmatch, rfl⟩

end Sys2Proof.Machine
end

section
/-! The range of the accumulators (40_checksum R106): every step keeps both pairs in 0..254, because it runs one instruction,
resets the block, or leaves them alone. -/

namespace Sys2Proof.Machine

/-- What a step that runs no instruction and resets nothing leaves of the checksum state: all of it. -/
abbrev State.SameSums (s t : State) : Prop :=
  t.csumA = s.csumA ∧ t.csumB = s.csumB ∧ t.rx = s.rx

/-- Everything a legal host write can do to the checksum state. -/
theorem writeTarget_exec_or_reset_or_sameSums {tgt : Target} {v : Word} {s t : State}
    (h : writeTarget tgt v s = .next t) : (∃ i, exec i s = .next t) ∨ t = s.resetBlock ∨ s.SameSums t := by
  have rxWord {d : Decoded} (h : runRxWord d s = .next t) :
      (∃ i, exec i s = .next t) ∨ t = s.resetBlock ∨ s.SameSums t := by
    rcases runRxWord_next h with ⟨i, -, hi⟩ | ⟨-, rfl⟩
    exacts [.inl ⟨i, hi⟩, .inr (.inr ⟨rfl, rfl, rfl⟩)]
  cases tgt with
  | ctrl =>
    rw [writeTarget] at h
    split at h <;> cases h
    exacts [.inr (.inl rfl), .inr (.inr ⟨rfl, rfl, rfl⟩)]
  | rxCtrl => exact rxWord h
  | rxData => exact rxWord (d := decode .rxData v) h
  | _ => cases h; exact .inr (.inr ⟨rfl, rfl, rfl⟩)

/-- Everything the CU's turn can do to the checksum state. -/
theorem cuStep_exec_or_sameSums {s t : State} (h : cuStep s = .next t) : (∃ i, exec i s = .next t) ∨ s.SameSums t := by
  rcases cuStep_next h with ⟨-, rfl⟩ | ⟨-, i, -, hi⟩ | ⟨-, e, -, rfl⟩
  exacts [.inr ⟨rfl, rfl, rfl⟩, .inl ⟨i, hi⟩, .inr ⟨rfl, rfl, rfl⟩]

/-- Everything an input can do to the checksum state. -/
theorem runInput_exec_or_reset_or_sameSums {x : Input} {s t : State} (h : runInput x s = .next t) :
    (∃ i, exec i s = .next t) ∨ t = s.resetBlock ∨ s.SameSums t := by
  cases x with
  | read width addr =>
    obtain ⟨tgt, -, rfl⟩ := hostRead_next h
    rw [s.deliver_sameBlock (readTarget s tgt)]
    exact .inr (.inr ⟨rfl, rfl, rfl⟩)
  | write width addr v =>
    obtain ⟨_, -, -, -, hw⟩ := hostWrite_next h
    exact writeTarget_exec_or_reset_or_sameSums hw
  | cuTurn => exact (cuStep_exec_or_sameSums h).imp_right .inr
  | powerOn => cases h; exact .inr (.inl rfl)

/-- Both accumulators of the decoder are in 0..254 (10_state R43, 40_checksum R106). -/
abbrev Rx.SumsInRange (r : Rx) : Prop :=
  r.ra.toNat ≤ 254 ∧ r.rb.toNat ≤ 254

/-- Both pairs of accumulators are in 0..254 (40_checksum R106). -/
abbrev State.SumsInRange (s : State) : Prop :=
  s.csumA.toNat ≤ 254 ∧ s.csumB.toNat ≤ 254 ∧ s.rx.SumsInRange

theorem Rx.sumsInRange_reset : Rx.reset.SumsInRange := fletcher_zero_le []

/-! The decoder: only a length clears its accumulators and only a body byte folds into them. -/

theorem Rx.sumsInRange_byte {r : Rx} (h : r.SumsInRange) (d : Bool) (x : Byte) : (r.byte d x).SumsInRange := by
  cases hst : r.state with
  | magic =>
    rw [Rx.byte_magic hst, Rx.magicByte]
    split_ifs <;> exact h
  | length =>
    rw [Rx.byte_length hst, Rx.lengthByte]
    split_ifs
    exacts [h, fletcher_zero_le []]
  | body =>
    rw [Rx.byte_body hst, Rx.bodyByte]
    dsimp only
    split_ifs <;> exact fletcherStep_le (r.ra, r.rb) x
  | csum =>
    rw [Rx.byte_csum hst, Rx.csumByte]
    dsimp only
    split_ifs <;> exact h
  | hold => exact Rx.byte_dropped (.inl hst) d x ▸ h
  | closed => exact Rx.byte_dropped (.inr hst) d x ▸ h

theorem Rx.sumsInRange_eos {r : Rx} (h : r.SumsInRange) : r.eos.SumsInRange := by
  unfold Rx.eos
  split <;> exact h

theorem Rx.sumsInRange_ack {r : Rx} (h : r.SumsInRange) : r.ack.SumsInRange := by
  by_cases hst : r.state = .hold
  · simp only [Rx.ack, hst]
    split_ifs <;> exact h
  · rwa [Rx.ack_idle hst]

/-- Every instruction keeps the decoder's accumulators in range. -/
theorem exec_rx_sumsInRange {i : Instr} {s t : State} (hr : s.rx.SumsInRange) (h : exec i s = .next t) :
    t.rx.SumsInRange := by
  by_cases hi : IsCommand i
  · rw [exec_rx_of_command hi h]
    exact hr
  · cases i with
    | rxByte x ignored => cases h; exact Rx.sumsInRange_byte hr s.dskip x
    | rxAck eos ignored =>
      cases h
      cases eos
      exacts [Rx.sumsInRange_ack hr, Rx.sumsInRange_eos (Rx.sumsInRange_ack hr)]
    | rxEos ack ignored =>
      cases h
      cases ack
      exacts [Rx.sumsInRange_eos hr, Rx.sumsInRange_eos (Rx.sumsInRange_ack hr)]
    | rxRst ack eos ignored => cases h; exact Rx.sumsInRange_reset
    | _ => exact absurd rfl hi

/-- Every instruction keeps CSUM in range: the checksum commands leave a fold there, the others leave it alone. -/
theorem exec_csum_le {i : Instr} {s t : State} (ha : s.csumA.toNat ≤ 254) (hb : s.csumB.toNat ≤ 254)
    (h : exec i s = .next t) : t.csumA.toNat ≤ 254 ∧ t.csumB.toNat ≤ 254 := by
  have oneShot := fletcher_zero_le s.srcData
  cases i with
  | csumClr => cases h; exact fletcher_zero_le []
  | csumAcc =>
    rcases execCsumAcc_next h with rfl | ⟨-, rfl⟩
    exacts [⟨ha, hb⟩, fletcher_le ha hb s.srcData]
  | csumCompute =>
    rcases execCsumCompute_next h with rfl | rfl | ⟨-, -, rfl⟩
    exacts [⟨ha, hb⟩, ⟨ha, hb⟩, oneShot]
  | csumVerify =>
    rcases execCsumVerify_next h with rfl | rfl | ⟨-, v, rfl⟩
    exacts [⟨ha, hb⟩, ⟨ha, hb⟩, oneShot]
  | hdrPack | hdrUnpack | chash =>
    rcases exec_next_of_resultCommand (by simp) h with ⟨_, rfl⟩ | ⟨_, rfl⟩ <;> exact ⟨ha, hb⟩
  | frameEncode | pktParse | encMac =>
    rcases exec_next_of_resultDstCommand (by simp) h with ⟨_, rfl⟩ | ⟨_, _, -, rfl⟩ <;> exact ⟨ha, hb⟩
  | gtxtBuild | gtxtPacket =>
    rcases exec_next_of_gtxtCommand (by simp) h with ⟨_, rfl⟩ | ⟨_, -, rfl⟩ <;> exact ⟨ha, hb⟩
  | rxByte | rxAck | rxEos | rxRst => cases h; exact ⟨ha, hb⟩

theorem step_sumsInRange {s t : State} (hs : s.SumsInRange) (h : step s = .next t) : t.SumsInRange := by
  have kept {s : State} (hs : s.SumsInRange)
      (h : (∃ i, exec i s = .next t) ∨ t = s.resetBlock ∨ s.SameSums t) : t.SumsInRange := by
    obtain ⟨ha, hb, hr⟩ := hs
    rcases h with ⟨i, h⟩ | rfl | ⟨hta, htb, htr⟩
    · obtain ⟨ha', hb'⟩ := exec_csum_le ha hb h
      exact ⟨ha', hb', exec_rx_sumsInRange hr h⟩
    · exact ⟨by simp, by simp, Rx.sumsInRange_reset⟩
    · exact ⟨hta ▸ ha, htb ▸ hb, htr ▸ hr⟩
  rcases step_next h with ⟨-, hc⟩ | ⟨x, rest, -, hx⟩
  · exact kept hs ((cuStep_exec_or_sameSums hc).imp_right .inr)
  · exact kept (s := { s with inputs := rest }) hs (runInput_exec_or_reset_or_sameSums hx)

/-- No byte in 0..254 is `FF`. -/
theorem ne_ff_of_le {x : Byte} (h : x.toNat ≤ 254) : x ≠ 0xFF := by
  rintro rfl
  exact absurd h (by decide)

/-- The second checksum byte holds an invalid result if either byte differs from its accumulator (41_frame_codec R130). -/
theorem Rx.csumByte_mismatch {r : Rx} (hn : r.rcnt ≠ 0) {x : Byte} (h : ¬ (r.c0 = r.rb ∧ x = r.ra)) :
    r.csumByte x = { r with
      csum := r.rb ++ r.ra ++ r.c0 ++ x, rcnt := 0, state := .hold, valid := false, ecode := .checksumMismatch,
      buf := [] } := by
  rw [Rx.csumByte, if_neg hn]
  exact if_neg h

/-- Settles O58: the steps by `step_sumsInRange`, the checksum's bytes by `fletcher_zero_le`; a received `FF` differs from an
accumulator in range. -/
theorem accumulatorsStayBelow255 : Obligations.AccumulatorsStayBelow255 := by
  refine ⟨fun s t ha hb hra hrb => step_sumsInRange ⟨ha, hb, hra, hrb⟩, fun d x hx => ?_,
    fun s x ignored hra hrb hst hn hff => ⟨_, rfl, ?_⟩⟩
  · obtain ⟨ha, hb⟩ := fletcher_zero_le d
    simp only [checksum, checksumBytes, List.mem_cons, List.not_mem_nil, or_false] at hx
    rcases hx with rfl | rfl
    exacts [ne_ff_of_le hb, ne_ff_of_le ha]
  · have hne : ¬ (s.rx.c0 = s.rx.rb ∧ x = s.rx.ra) := fun ⟨hc0, hx⟩ =>
      hff.elim (fun h => ne_ff_of_le hrb (hc0 ▸ h)) fun h => ne_ff_of_le hra (hx ▸ h)
    rw [State.setRx_rx, Rx.byte_csum hst, Rx.csumByte_mismatch (by omega) hne]

end Sys2Proof.Machine
end

section
/-! The receive decoder byte by byte (41_frame_codec R124-R131): what one byte does in each state, by the count of bytes
received of the current field. -/

namespace Sys2Proof.Machine

theorem exec_rxByte (x : Byte) (ignored : BitVec 24) (s : State) :
    exec (.rxByte x ignored) s = .next (s.setRx (s.rx.byte s.dskip x)) := rfl

theorem Rx.magicByte_first {r : Rx} (h : r.rcnt = 0) (d : Bool) (x : Byte) :
    r.magicByte d x = if d = true ∧ x = delim then r else { r with m0 := x, rcnt := 1 } :=
  if_pos h

theorem Rx.magicByte_second {r : Rx} (h : r.rcnt ≠ 0) (d : Bool) (x : Byte) :
    r.magicByte d x =
      if r.m0 = magic0 ∧ x = magic1 then { r with rcnt := 0, state := .length }
      else { r with rcnt := 0, state := .hold, valid := false, ecode := .badMagic } :=
  if_neg h

theorem Rx.lengthByte_first {r : Rx} (h : r.rcnt = 0) (x : Byte) : r.lengthByte x = { r with lhi := x, rcnt := 1 } :=
  if_pos h

theorem Rx.lengthByte_second {r : Rx} (h : r.rcnt ≠ 0) (x : Byte) :
    r.lengthByte x = { r with
      len := r.lhi ++ x, ra := 0, rb := 0, rcnt := 0, buf := [],
      state := if (r.lhi ++ x : BitVec 16) = 0 then .csum else .body } :=
  if_neg h

/-- A body byte is stored, folded and counted; the last one ends the body (41_frame_codec R127). -/
theorem Rx.bodyByte_eq (r : Rx) (x : Byte) :
    r.bodyByte x = { r with
      buf := Memory.put r.buf r.rcnt x, ra := (fletcherStep (r.ra, r.rb) x).1, rb := (fletcherStep (r.ra, r.rb) x).2,
      rcnt := if r.rcnt + 1 = r.len.toNat then 0 else r.rcnt + 1,
      state := if r.rcnt + 1 = r.len.toNat then .csum else r.state } := by
  unfold Rx.bodyByte
  split_ifs <;> rfl

theorem Rx.csumByte_first {r : Rx} (h : r.rcnt = 0) (x : Byte) : r.csumByte x = { r with c0 := x, rcnt := 1 } :=
  if_pos h

/-- The second checksum byte holds a valid result if both bytes are the accumulators (41_frame_codec R130). -/
theorem Rx.csumByte_match {r : Rx} (hn : r.rcnt ≠ 0) {x : Byte} (h : r.c0 = r.rb ∧ x = r.ra) :
    r.csumByte x = { r with
      csum := r.rb ++ r.ra ++ r.c0 ++ x, rcnt := 0, state := .hold, valid := true, ecode := .noError } := by
  rw [Rx.csumByte, if_neg hn]
  exact if_pos h

/-- Settles O29: the two bytes of `Rx.magicByte_first` and `Rx.magicByte_second`. -/
theorem rxByteInMagic : Obligations.RxByteInMagic := by
  intro s x ignored hst
  rw [exec_rxByte, Rx.byte_magic hst]
  refine ⟨fun hn => ?_, fun hn => ?_⟩
  · rw [Rx.magicByte_first hn, apply_ite s.setRx]
    rfl
  · rw [Rx.magicByte_second (by omega)]
    rfl

/-- Settles O30: `Rx.lengthByte_first` and `Rx.lengthByte_second`; the two bytes put together are the big-endian number. -/
theorem rxByteInLength : Obligations.RxByteInLength := by
  intro s x ignored hst
  rw [exec_rxByte, Rx.byte_length hst]
  refine ⟨fun hn => ?_, fun hn => ⟨_, rfl, ?_⟩⟩
  · rw [Rx.lengthByte_first hn]
    rfl
  · rw [Rx.lengthByte_second (by omega)]
    refine ⟨rfl, ?_, Memory.byteAt_nil⟩
    exact (toNat_append_eq_add s.rx.lhi x).trans (by omega)

/-- Settles O31: `Rx.bodyByte_eq`, with what the buffer reads as after the byte is put and the fold as numbers. -/
theorem rxByteInBody : Obligations.RxByteInBody := by
  intro s x ignored hst hlt
  have hlen := s.rx.len.isLt
  obtain ⟨hra, hrb⟩ := fletcherStep_toNat (s.rx.ra, s.rx.rb) x
  have stored (k : Nat) := Memory.byteAt_put s.rx.buf s.rx.rcnt x k
  rw [exec_rxByte, Rx.byte_body hst, Rx.bodyByte_eq, hst]
  exact ⟨⟨_, rfl, rfl, (stored _).trans (if_pos rfl), fun k hk => (stored k).trans (if_neg hk), hra, hra ▸ hrb⟩,
    fun ⟨_, _, _, hsize, _⟩ => by omega⟩

/-- An accumulator in range is no received `FF` (40_checksum R106, 41_frame_codec R130). -/
theorem Rx.mismatch_of_ff {r : Rx} {x : Byte} (hr : r.SumsInRange) (hff : r.c0 = 0xFF ∨ x = 0xFF) :
    ¬ (r.c0 = r.rb ∧ x = r.ra) := by
  rintro ⟨hc0, hx⟩
  rcases hff with h | h
  · exact ne_ff_of_le hr.2 (hc0 ▸ h)
  · exact ne_ff_of_le hr.1 (hx ▸ h)

/-- Settles O32: the first byte is `Rx.csumByte_first`; the second matches or not. The invariant says what the accumulators
are and bounds them below `FF`. -/
theorem rxByteInCsum : Obligations.RxByteInCsum := by
  intro s x ignored hst
  rw [exec_rxByte, Rx.byte_csum hst]
  refine ⟨fun hn => ?_, fun hn heq => ?_, fun hn hne => ⟨_, rfl, ?_⟩, fun hi => ?_, fun hi hn hff => ⟨_, rfl, ?_⟩⟩
  · rw [Rx.csumByte_first hn]
    rfl
  · rw [Rx.csumByte_match (by omega) heq]
    rfl
  · rw [Rx.csumByte_mismatch (by omega) hne]
    exact ⟨rfl, Memory.byteAt_nil⟩
  · obtain ⟨-, -, -, -, -, hsum⟩ := (Rx.inv_iff_of_csum hst).mp hi
    exact hsum
  · obtain ⟨hra, hrb, -⟩ := hi
    rw [Rx.csumByte_mismatch (by omega) (Rx.mismatch_of_ff ⟨hra, hrb⟩ hff)]
    exact ⟨rfl, rfl⟩

/-- Settles O33: `Rx.byte_dropped`. -/
theorem rxByteInHoldOrClosedIsDropped : Obligations.RxByteInHoldOrClosedIsDropped := by
  intro s x ignored hst
  rw [exec_rxByte, Rx.byte_dropped hst]
  rfl

end Sys2Proof.Machine
end

section
/-! The RX control operations (41_frame_codec R133-R136), and what leaves `CLOSED`. -/

namespace Sys2Proof.Machine

/-- The acknowledge of a held result at the end of the stream (41_frame_codec R134). -/
theorem Rx.ack_hold_eosf {r : Rx} (h : r.state = .hold) (he : r.eosf = true) :
    r.ack = { r with valid := false, ovf := false, state := .closed, ecode := .truncated, buf := [] } := by
  simp only [Rx.ack, h, if_pos he, Rx.clearBuf]

theorem Rx.ack_hold {r : Rx} (h : r.state = .hold) (he : r.eosf = false) :
    r.ack = { r with valid := false, ovf := false, state := .magic, ecode := .noError, rcnt := 0, buf := [] } := by
  simp only [Rx.ack, h, he, Bool.false_eq_true, if_false, Rx.clearBuf]

/-- Settles O35: `Rx.ack_hold_eosf`, `Rx.ack_hold` and `Rx.ack_idle`. -/
theorem rxAckReleasesHeldResult : Obligations.RxAckReleasesHeldResult := by
  intro s ignored
  have hexec : exec (.rxAck false ignored) s = .next (s.setRx s.rx.ack) := rfl
  rw [hexec]
  refine ⟨fun hst => ⟨_, rfl, ?_⟩, fun hst => by rw [Rx.ack_idle hst]; rfl⟩
  cases he : s.rx.eosf with
  | true =>
    rw [Rx.ack_hold_eosf hst he]
    exact ⟨fun _ => rfl, nofun, Memory.byteAt_nil⟩
  | false =>
    rw [Rx.ack_hold hst he]
    exact ⟨nofun, fun _ => rfl, Memory.byteAt_nil⟩

/-- Settles O36: the decoder is `Rx.reset`. -/
theorem rxRstResetsDecoder : Obligations.RxRstResetsDecoder :=
  fun s _ _ _ => ⟨s.setRx Rx.reset, rfl, rfl, rfl, Memory.byteAt_nil⟩

/-- From `HOLD`, ACK and EOS in one write close the decoder with `Truncated` (41_frame_codec R136). -/
theorem Rx.ack_eos_of_hold {r : Rx} (h : r.state = .hold) :
    r.ack.eos.state = .closed ∧ r.ack.eos.ecode = .truncated := by
  cases he : r.eosf with
  | true =>
    rw [Rx.ack_hold_eosf h he]
    exact ⟨rfl, rfl⟩
  | false =>
    rw [Rx.ack_hold h he]
    exact ⟨rfl, rfl⟩

/-- The end of the stream, then the acknowledge of the held result. -/
theorem Rx.eos_ack_of_hold {r : Rx} (h : r.state = .hold) :
    r.eos.ack.state = .closed ∧ r.eos.ack.ecode = .truncated := by
  rw [Rx.eos_finished (.inl h), Rx.ack_hold_eosf (by exact h) rfl]
  exact ⟨rfl, rfl⟩

/-- Settles O37: the words with several bits are compositions by definition; from `HOLD` both orders close the decoder. -/
theorem rxCtrlBitsTogether : Obligations.RxCtrlBitsTogether := by
  intro s ack eos ignored
  refine ⟨rfl, ⟨_, rfl, rfl, rfl⟩, fun hst => ⟨_, _, _, rfl, rfl, rfl, ?_⟩⟩
  obtain ⟨h1, h2⟩ := Rx.ack_eos_of_hold hst
  exact ⟨h1, h2, Rx.eos_ack_of_hold hst⟩

/-! What leaves `CLOSED`. -/

/-- No instruction but `RX_RST` leaves `CLOSED`. -/
theorem exec_keeps_closed {i : Instr} {s t : State} (hi : ∀ ack eos ign, i ≠ .rxRst ack eos ign)
    (hst : s.rx.state = .closed) (h : exec i s = .next t) : t.rx.state = .closed := by
  have hack : s.rx.ack = s.rx := Rx.ack_idle (by simp [hst])
  have heos : s.rx.eos.state = .closed := by rw [Rx.eos_finished (.inr hst)]; exact hst
  by_cases hc : IsCommand i
  · rw [exec_rx_of_command hc h]
    exact hst
  · cases i with
    | rxByte x ign =>
      cases h
      rw [State.setRx_rx, Rx.byte_dropped (.inr hst)]
      exact hst
    | rxAck eos ign =>
      cases h
      rw [State.setRx_rx, hack]
      split_ifs
      exacts [heos, hst]
    | rxEos ack ign =>
      cases h
      rw [State.setRx_rx, hack, ite_self]
      exact heos
    | rxRst ack eos ign => exact absurd rfl (hi ack eos ign)
    | _ => exact absurd rfl hc

/-- A command word decodes to a command only. -/
theorem isCommand_of_decodeCmd {w : Word} {i : Instr} (h : decode .cmd w = .instr i) : IsCommand i := by
  rw [IsCommand, (encodeInvertsDecode .cmd w i h).2]

/-- `RX_RST` is written with bit 2, `RST` (10_state R33). -/
theorem rst_of_decodeRxCtrl {v : Word} {ack eos : Bool} {ign : BitVec 29}
    (h : decode .rxCtrl v = .instr (.rxRst ack eos ign)) : v.getLsbD 2 = true := by
  rw [decode, decodeRxCtrl] at h
  by_contra hrst
  rw [if_neg hrst] at h
  split_ifs at h <;> cases h

theorem cuStep_rx {s t : State} (h : cuStep s = .next t) : t.rx = s.rx := by
  rcases cuStep_next h with ⟨-, rfl⟩ | ⟨-, i, hdec, hi⟩ | ⟨-, e, -, rfl⟩
  exacts [rfl, exec_rx_of_command (isCommand_of_decodeCmd hdec) hi, rfl]

/-- What an access reaches is a register at its offset, or a window (10_state R23, 20_memory R63). -/
theorem addr_of_resolve {c : Config} {width : Width} {addr : Nat} {t : Target} (h : resolve c width addr = some t)
    (ht : ∀ i, t ≠ .secret i ∧ t ≠ .src i ∧ t ≠ .dst i ∧ t ≠ .rxbuf i) :
    width = .word ∧ ∃ off, addr = c.base + off ∧ (off, t) ∈ registerMap := by
  unfold resolve at h
  split_ifs at h with hacc
  obtain ⟨hw, -, hle⟩ := hacc
  refine ⟨hw, addr - c.base, by omega, ?_⟩
  unfold busTarget at h
  split_ifs at h
  · obtain ⟨l₁, l₂, hl, -⟩ := List.lookup_eq_some_iff.mp h
    simp [hl]
  all_goals
    cases h
    simp at ht

theorem addr_of_resolve_ctrl {c : Config} {width : Width} {addr : Nat} (h : resolve c width addr = some .ctrl) :
    width = .word ∧ addr = c.base := by
  obtain ⟨hw, off, rfl, hmem⟩ := addr_of_resolve h (by simp)
  have hoff : off = 0 := by simpa [registerMap] using hmem
  exact ⟨hw, by rw [hoff, Nat.add_zero]⟩

theorem addr_of_resolve_rxCtrl {c : Config} {width : Width} {addr : Nat} (h : resolve c width addr = some .rxCtrl) :
    width = .word ∧ addr = c.base + 0x40 := by
  obtain ⟨hw, off, rfl, hmem⟩ := addr_of_resolve h (by simp)
  have hoff : off = 0x40 := by simpa [registerMap] using hmem
  exact ⟨hw, by rw [hoff]⟩

/-- A write leaves `CLOSED` only as a CTRL write with SRST or an RX_CTRL write with RST. -/
theorem writeTarget_keeps_closed {tgt : Target} {v : Word} {s t : State} (hst : s.rx.state = .closed)
    (h : writeTarget tgt v s = .next t) :
    t.rx.state = .closed ∨ (tgt = .ctrl ∧ v.getLsbD 0 = true) ∨ (tgt = .rxCtrl ∧ v.getLsbD 2 = true) := by
  cases tgt with
  | ctrl =>
    rw [writeTarget] at h
    split at h
    case isTrue hsrst => exact .inr (.inl ⟨rfl, hsrst⟩)
    case isFalse =>
      cases h
      exact .inl hst
  | rxCtrl =>
    by_cases hrst : v.getLsbD 2 = true
    · exact .inr (.inr ⟨rfl, hrst⟩)
    · rcases runRxWord_next h with ⟨i, hdec, hi⟩ | ⟨-, rfl⟩
      · exact .inl (exec_keeps_closed (fun _ _ _ hi => hrst (rst_of_decodeRxCtrl (hi ▸ hdec))) hst hi)
      · exact .inl hst
  | rxData => exact .inl (exec_keeps_closed (i := .rxByte (v.extractLsb' 0 8) (v.extractLsb' 8 24)) nofun hst h)
  | _ =>
    cases h
    exact .inl hst

/-- An input leaves `CLOSED` only as power-on, a CTRL write with SRST or an RX_CTRL write with RST. -/
theorem runInput_keeps_closed {x : Input} {s t : State} (hst : s.rx.state = .closed) (h : runInput x s = .next t) :
    t.rx.state = .closed ∨ x = .powerOn ∨
      ∃ v, (x = .write .word s.cfg.base v ∧ v.getLsbD 0 = true) ∨
        (x = .write .word (s.cfg.base + 0x40) v ∧ v.getLsbD 2 = true) := by
  cases x with
  | read width addr =>
    obtain ⟨tgt, -, rfl⟩ := hostRead_next h
    rw [State.deliver_sameBlock _ (readTarget _ tgt)]
    exact .inl hst
  | write width addr v =>
    obtain ⟨tgt, htgt, -, -, hw⟩ := hostWrite_next h
    rcases writeTarget_keeps_closed hst hw with hkept | ⟨rfl, hsrst⟩ | ⟨rfl, hrst⟩
    · exact .inl hkept
    · obtain ⟨rfl, rfl⟩ := addr_of_resolve_ctrl htgt
      exact .inr (.inr ⟨v, .inl ⟨rfl, hsrst⟩⟩)
    · obtain ⟨rfl, rfl⟩ := addr_of_resolve_rxCtrl htgt
      exact .inr (.inr ⟨v, .inr ⟨rfl, hrst⟩⟩)
  | cuTurn =>
    rw [cuStep_rx h]
    exact .inl hst
  | powerOn => exact .inr (.inl rfl)

/-- Settles O34: the state after EOS is `Rx.eos_unfinished` or `Rx.eos_finished`; a step of a closed decoder is the CU's turn,
which leaves it alone, or an input's, `runInput_keeps_closed`. -/
theorem rxEosTruncatesOrMarks : Obligations.RxEosTruncatesOrMarks := by
  refine ⟨fun s ignored => ?_, fun s t hst h => ?_⟩
  · have hexec : exec (.rxEos false ignored) s = .next (s.setRx s.rx.eos) := rfl
    rw [hexec]
    refine ⟨fun hh hc => ⟨_, rfl, ?_⟩, fun hfin => ?_⟩
    · rw [Rx.eos_unfinished hh hc]
      exact ⟨rfl, Memory.byteAt_nil⟩
    · rw [Rx.eos_finished hfin]
      rfl
  · rcases step_next h with ⟨-, hc⟩ | ⟨x, rest, hin, hx⟩
    · rw [cuStep_rx hc]
      exact .inl hst
    · rw [hin]
      rcases runInput_keeps_closed (s := { s with inputs := rest }) hst hx with
        hkept | rfl | ⟨v, ⟨rfl, hsrst⟩ | ⟨rfl, hrst⟩⟩
      · exact .inl hkept
      · exact .inr ⟨rest, .inl rfl⟩
      · exact .inr ⟨rest, .inr ⟨v, .inl ⟨rfl, hsrst⟩⟩⟩
      · exact .inr ⟨rest, .inr ⟨v, .inr ⟨rfl, hrst⟩⟩⟩

end Sys2Proof.Machine
end

section
/-! The frame (41_frame_codec R120, R121): its bytes, and `FRAME_ENCODE`, which writes it. -/

namespace Sys2Proof.Machine

/-! The bytes of a frame by index (41_frame_codec R120). -/

theorem getElem?_frameEncode_body {p : List Byte} {k : Nat} (h : k < p.length) : (frameEncode p)[4 + k]? = p[k]? := by
  rw [frameEncode, List.getElem?_append_left (by simp; omega), List.getElem?_append_right (by simp)]
  simp

theorem getElem?_frameEncode_checksum (p : List Byte) (k : Nat) :
    (frameEncode p)[p.length + 4 + k]? = (checksum p)[k]? := by
  rw [frameEncode, List.getElem?_append_right (by simp; omega)]
  congr 1
  simp
  omega

/-- A packet that is too long for a frame (41_frame_codec R121). -/
theorem execFrameEncode_of_long {s : State} (hlen : s.srcLen.toNat ≤ s.cfg.srcSize) (hn : 65535 < s.srcLen.toNat) :
    execFrameEncode s = .next (s.raiseError .frameLen) := by
  rw [execFrameEncode, checkSrcLen_pass hlen]
  exact if_pos hn

/-- RESULT is read off the frame's last two bytes. -/
theorem execFrameEncode_of_fits {s : State} (hlen : s.srcLen.toNat ≤ s.cfg.srcSize) (hn : s.srcLen.toNat ≤ 65535) :
    execFrameEncode s = checkOut s (s.srcLen.toNat + 6) (consumeSrc s 0 s.srcLen.toNat fun p =>
      .next ((s.putDst (frameEncode p)).setResult (pairWord ((frameEncode p).getD (s.srcLen.toNat + 4) 0)
        ((frameEncode p).getD (s.srcLen.toNat + 5) 0))).finish) := by
  rw [execFrameEncode, checkSrcLen_pass hlen]
  exact if_neg (Nat.not_lt.mpr hn)

/-! The frame of SRC's bytes, and DST after it is written there. -/

theorem length_srcData (s : State) : s.srcData.length = s.srcLen.toNat :=
  State.length_srcBytes s 0 _

theorem length_frameEncode_srcData (s : State) : (frameEncode s.srcData).length = s.srcLen.toNat + 6 := by
  rw [length_frameEncode, length_srcData]

theorem getElem?_frameEncode_srcData_checksum (s : State) (k : Nat) :
    (frameEncode s.srcData)[s.srcLen.toNat + 4 + k]? = (checksum s.srcData)[k]? :=
  length_srcData s ▸ getElem?_frameEncode_checksum s.srcData k

theorem byteAt_putDst_frameEncode (s : State) {k : Nat} (hk : k < s.srcLen.toNat + 6) :
    Memory.byteAt (s.putDst (frameEncode s.srcData)).dst k = (frameEncode s.srcData)[k]? := by
  rw [State.byteAt_putDst, length_frameEncode_srcData, if_pos hk]

/-- What `FRAME_ENCODE` does on operands that are ready: RESULT is the checksum's value. -/
theorem execFrameEncode_of_ready {s : State} (h : s.SrcReady) (hn : s.srcLen.toNat ≤ 65535)
    (hd : s.srcLen.toNat + 6 ≤ s.cfg.dstSize) :
    execFrameEncode s =
      .next ((s.putDst (frameEncode s.srcData)).setResult (checksumWord (fletcher 0 0 s.srcData))).finish := by
  have hcsum (k : Nat) : (frameEncode s.srcData).getD (s.srcLen.toNat + 4 + k) 0 = (checksum s.srcData).getD k 0 := by
    rw [List.getD_eq_getElem?_getD, getElem?_frameEncode_srcData_checksum, List.getD_eq_getElem?_getD]
  have hb : (frameEncode s.srcData).getD (s.srcLen.toNat + 4) 0 = (fletcher 0 0 s.srcData).2 := hcsum 0
  have ha : (frameEncode s.srcData).getD (s.srcLen.toNat + 5) 0 = (fletcher 0 0 s.srcData).1 := hcsum 1
  rw [execFrameEncode_of_fits h.1 hn, checkOut_pass hd, consumeSrc_srcData h.2, hb, ha, checksumWord]

/-- Settles O28: on ready operands the equation of `execFrameEncode_of_ready`, whose DST bytes are the frame's; else the first
check or byte that fails. -/
theorem frameEncodeWritesFrame : Obligations.FrameEncodeWritesFrame := by
  refine ⟨fun s => ⟨fun hready hn hdst => ⟨_, execFrameEncode_of_ready hready hn hdst, ?_⟩,
    fun hlen => checkSrcLen_fail hlen _, execFrameEncode_of_long, fun hlen hn hdst => ?_,
    fun hlen hn hdst hundef => ?_⟩, commandEncoding_of_lookup rfl⟩
  · have inside {k : Nat} (hk : k < s.srcLen.toNat + 6) := byteAt_putDst_frameEncode s hk
    have hcsum := getElem?_frameEncode_srcData_checksum s
    rw [State.finish_dst, State.setResult_dst]
    refine ⟨?_, inside (by omega), inside (by omega), (inside (by omega)).trans ?_, (inside (by omega)).trans ?_,
      fun k hk => (inside (by omega)).trans ?_, (inside (by omega)).trans (hcsum 0),
      (inside (by omega)).trans (hcsum 1), fun k hk => ?_⟩
    · rw [checksumWord_eq_append, ← length_frameEncode_srcData]
      rfl
    · rw [← length_srcData]
      rfl
    · rw [← length_srcData]
      exact congrArg some (BitVec.eq_of_toNat_eq (by simp))
    · rw [getElem?_frameEncode_body (by rwa [length_srcData]), State.srcData, State.getElem?_srcBytes hready.2 hk,
        Nat.zero_add]
    · rw [State.byteAt_putDst, length_frameEncode_srcData, if_neg (Nat.not_lt.mpr hk)]
  · rw [exec, execFrameEncode_of_fits hlen hn, checkOut_fail hdst]
  · rw [exec, execFrameEncode_of_fits hlen hn, checkOut_pass hdst]
    exact consumeSrc_faultsAtUndefined hundef _

end Sys2Proof.Machine
end

section
/-! A whole frame fed to the decoder (41_frame_codec R137, R138): the header, the body and the checksum one after the other,
and what a replaced body byte does. (`by exact h` lets the goal say which decoder the state or the count is of.) -/

namespace Sys2Proof.Machine

/-- The decoder over a stream of bytes, as `run_feed` runs it. -/
def Rx.feed (r : Rx) (dskip : Bool) (bs : List Byte) : Rx :=
  bs.foldl (fun r x => r.byte dskip x) r

@[simp] theorem Rx.feed_nil (r : Rx) (d : Bool) : r.feed d [] = r := rfl

theorem Rx.feed_cons (r : Rx) (d : Bool) (x : Byte) (bs : List Byte) : r.feed d (x :: bs) = (r.byte d x).feed d bs := rfl

theorem Rx.feed_append (r : Rx) (d : Bool) (bs cs : List Byte) : r.feed d (bs ++ cs) = (r.feed d bs).feed d cs :=
  List.foldl_append

/-- Both magic bytes lead to `LENGTH`: the first is no delimiter (41_frame_codec R124, R125). -/
theorem Rx.feed_magic {r : Rx} (hst : r.state = .magic) (hn : r.rcnt = 0) (d : Bool) :
    r.feed d [magic0, magic1] = { r with m0 := magic0, rcnt := 0, state := .length } := by
  have hdelim : ¬ (d = true ∧ magic0 = delim) := fun h => absurd h.2 (by decide)
  have h1 : r.byte d magic0 = { r with m0 := magic0, rcnt := 1 } := by
    rw [Rx.byte_magic hst, Rx.magicByte_first hn, if_neg hdelim]
  rw [Rx.feed_cons, h1, Rx.feed_cons, Rx.byte_magic (by exact hst), Rx.magicByte_second (by exact Nat.one_ne_zero),
    if_pos ⟨rfl, rfl⟩, Rx.feed_nil]

/-- The two bytes of `u16be` put together are the number (00_scope R10). -/
theorem u16be_append {n : Nat} (h : n ≤ 65535) :
    (BitVec.ofNat 8 (n / 256) ++ BitVec.ofNat 8 n : BitVec 16) = BitVec.ofNat 16 n := by
  apply BitVec.eq_of_toNat_eq
  refine (toNat_append_eq_add _ _).trans ?_
  simp only [BitVec.toNat_ofNat]
  omega

/-- Both length bytes start a fresh body, or the checksum of an empty one (41_frame_codec R126). -/
theorem Rx.feed_length {r : Rx} (hst : r.state = .length) (hn : r.rcnt = 0) (d : Bool) {n : Nat} (h : n ≤ 65535) :
    r.feed d (u16be n) = { r with
      lhi := BitVec.ofNat 8 (n / 256), len := BitVec.ofNat 16 n, ra := 0, rb := 0, rcnt := 0, buf := [],
      state := if n = 0 then .csum else .body } := by
  have hzero : BitVec.ofNat 16 n = 0 ↔ n = 0 := by
    rw [← BitVec.toNat_inj, BitVec.toNat_ofNat, Nat.mod_eq_of_lt (by omega)]
    rfl
  rw [u16be, Rx.feed_cons, Rx.byte_length hst, Rx.lengthByte_first hn, Rx.feed_cons, Rx.byte_length (by exact hst),
    Rx.lengthByte_second (by exact Nat.one_ne_zero), Rx.feed_nil]
  simp only [u16be_append h, hzero]

/-- The body bytes that are left are stored and folded, and lead to `CSUM` (41_frame_codec R127). -/
theorem Rx.feed_body {r : Rx} (hst : r.state = .body) (d : Bool) {bs : List Byte} (hne : bs ≠ [])
    (hn : r.rcnt + bs.length = r.len.toNat) :
    r.feed d bs = { r with
      buf := Memory.putBytes r.buf r.rcnt bs, ra := (fletcher r.ra r.rb bs).1, rb := (fletcher r.ra r.rb bs).2,
      rcnt := 0, state := .csum } := by
  induction bs generalizing r with
  | nil => contradiction
  | cons x bs ih =>
    rw [List.length_cons] at hn
    rw [Rx.feed_cons, Rx.byte_body hst, Rx.bodyByte_eq]
    cases bs with
    | nil =>
      have hlast : r.rcnt + 1 = r.len.toNat := hn
      rw [if_pos hlast, if_pos hlast]
      rfl
    | cons y bs =>
      have hinner : ¬ r.rcnt + 1 = r.len.toNat := by rw [List.length_cons] at hn; omega
      rw [if_neg hinner, if_neg hinner, ih (by exact hst) (by simp) (by simpa [Nat.add_assoc, Nat.add_comm 1] using hn)]
      rfl

/-- The decoder after the magic, the length and the body of a frame. -/
def Rx.received (r : Rx) (body : List Byte) : Rx :=
  { r with
    state := .csum, rcnt := 0, m0 := magic0, lhi := BitVec.ofNat 8 (body.length / 256),
    len := BitVec.ofNat 16 body.length, ra := (fletcher 0 0 body).1, rb := (fletcher 0 0 body).2,
    buf := Memory.putBytes [] 0 body }

theorem Rx.feed_received {r : Rx} (hst : r.state = .magic) (hn : r.rcnt = 0) (d : Bool) {body : List Byte}
    (h : body.length ≤ 65535) : r.feed d ([magic0, magic1] ++ u16be body.length ++ body) = r.received body := by
  rw [Rx.feed_append, Rx.feed_append, Rx.feed_magic hst hn, Rx.feed_length rfl rfl d h]
  by_cases hb : body = []
  · subst hb
    rfl
  · have hlen : body.length ≠ 0 := fun h => hb (List.length_eq_zero_iff.mp h)
    have hcount : 0 + body.length = (BitVec.ofNat 16 body.length).toNat := by
      rw [BitVec.toNat_ofNat]
      omega
    rw [if_neg hlen, Rx.feed_body rfl d hb (by exact hcount)]
    rfl

/-- The bytes of a frame that carries a body and the checksum bytes of accumulators that need not be the body's. -/
def frameBytes (body : List Byte) (ab : Byte × Byte) : List Byte :=
  [magic0, magic1] ++ u16be body.length ++ body ++ checksumBytes ab

theorem frameEncode_eq_frameBytes (p : List Byte) : frameEncode p = frameBytes p (fletcher 0 0 p) := rfl

/-- With one body byte replaced the frame carries the checksum of the old body (41_frame_codec R138). -/
theorem set_frameEncode {p : List Byte} {i : Nat} (hi : i < p.length) (y : Byte) :
    (frameEncode p).set (4 + i) y = frameBytes (p.set i y) (fletcher 0 0 p) := by
  rw [frameEncode, frameBytes, List.set_append_left _ _ (by simp; omega), List.set_append_right _ _ (by simp)]
  simp [checksum]

/-- Two checksum bytes are one `Rx.csumByte` over the first, kept in `c0` (41_frame_codec R129, R130). -/
theorem Rx.feed_checksumBytes {r : Rx} (hst : r.state = .csum) (hn : r.rcnt = 0) (d : Bool) (ab : Byte × Byte) :
    r.feed d (checksumBytes ab) = Rx.csumByte { r with c0 := ab.2, rcnt := 1 } ab.1 := by
  rw [checksumBytes, Rx.feed_cons, Rx.byte_csum hst, Rx.csumByte_first hn, Rx.feed_cons, Rx.byte_csum (by exact hst),
    Rx.feed_nil]

/-- The decoder after a whole frame. -/
def Rx.afterFrame (r : Rx) (body : List Byte) (ab : Byte × Byte) : Rx :=
  Rx.csumByte { r.received body with c0 := ab.2, rcnt := 1 } ab.1

/-- The host writes of a frame's bytes run the decoder over the frame and change nothing else. -/
theorem run_frame {s : State} {rest : List Input} {body : List Byte} {ab : Byte × Byte} (hlen : body.length ≤ 65535)
    (hb : s.cfg.base % 4 = 0) (hst : s.rx.state = .magic) (hn : s.rx.rcnt = 0)
    (h : s.inputs = feedInputs s.cfg (frameBytes body ab) ++ rest) :
    core.run (body.length + 6) s = .next { s with inputs := rest, rx := s.rx.afterFrame body ab } := by
  have hcount : (frameBytes body ab).length = body.length + 6 := by simp [frameBytes]; omega
  have hfeed : s.rx.feed s.dskip (frameBytes body ab) = s.rx.afterFrame body ab := by
    rw [frameBytes, Rx.feed_append, Rx.feed_received hst hn _ hlen, Rx.feed_checksumBytes rfl rfl, Rx.afterFrame]
  rw [← hcount, ← hfeed]
  exact run_feed hb h

/-- The decoder holds a packet as a valid result (41_frame_codec R130). -/
def Rx.HoldsPacket (r : Rx) (p : List Byte) : Prop :=
  r.state = .hold ∧ r.valid = true ∧ r.ecode = .noError ∧ r.len.toNat = p.length ∧
    ∀ k, k < p.length → Memory.byteAt r.buf k = p[k]?

/-- A frame with the checksum of its body delivers the body (41_frame_codec R130). -/
theorem Rx.afterFrame_holdsPacket (r : Rx) {body : List Byte} (hlen : body.length ≤ 65535) :
    (r.afterFrame body (fletcher 0 0 body)).HoldsPacket body := by
  have hmatch : r.afterFrame body (fletcher 0 0 body) = _ := Rx.csumByte_match Nat.one_ne_zero ⟨rfl, rfl⟩
  rw [hmatch]
  refine ⟨rfl, rfl, rfl, ?_, fun k hk => ?_⟩
  · exact (BitVec.toNat_ofNat ..).trans (Nat.mod_eq_of_lt (by omega))
  · exact (Memory.byteAt_putBytes [] 0 body k).trans (if_pos ⟨Nat.zero_le k, by omega⟩)

/-- A frame with another checksum ends in `ChecksumMismatch` (41_frame_codec R130). -/
theorem Rx.afterFrame_mismatch (r : Rx) {body : List Byte} {ab : Byte × Byte} (h : ab ≠ fletcher 0 0 body) :
    (r.afterFrame body ab).state = .hold ∧ (r.afterFrame body ab).valid = false ∧
      (r.afterFrame body ab).ecode = .checksumMismatch := by
  have hne : ¬ (ab.2 = (fletcher 0 0 body).2 ∧ ab.1 = (fletcher 0 0 body).1) := fun ⟨h2, h1⟩ => h (Prod.ext h1 h2)
  have hmismatch : r.afterFrame body ab = _ := Rx.csumByte_mismatch Nat.one_ne_zero hne
  rw [hmismatch]
  exact ⟨rfl, rfl, rfl⟩

/-- Settles O38: the frame runs as `run_frame`, and it carries its own body's checksum. -/
theorem decodeOfEncodedFrameIsPacket : Obligations.DecodeOfEncodedFrameIsPacket := by
  intro p s rest hlen hb hst hn h
  rw [frameEncode_eq_frameBytes] at h
  exact ⟨_, run_frame hlen hb hst hn h, rfl, Rx.afterFrame_holdsPacket s.rx hlen⟩

/-- Settles O39: the frame carries the old body's checksum, which is the new body's exactly when `00` and `FF` were exchanged
(`checksumClosedFormAndDetection`). -/
theorem corruptedBodyByteDetectedButForZeroAndFF : Obligations.CorruptedBodyByteDetectedButForZeroAndFF := by
  intro p s rest i y hi hlen hb hst hn hy h
  obtain ⟨-, -, detect⟩ := checksumClosedFormAndDetection p
  have hsum : fletcher 0 0 p = fletcher 0 0 (p.set i y) ↔ (y = 0x00 ∧ p[i] = 0xFF) ∨ (y = 0xFF ∧ p[i] = 0x00) := by
    rw [← checksum_eq_checksum_iff, eq_comm, detect i y hi]
    simp [hy]
  have hlen' : (p.set i y).length = p.length := List.length_set
  rw [set_frameEncode hi] at h
  have hrun := run_frame (hlen'.trans_le hlen) hb hst hn h
  rw [hlen'] at hrun
  refine ⟨_, hrun, ?_⟩
  by_cases hex : (y = 0x00 ∧ p[i] = 0xFF) ∨ (y = 0xFF ∧ p[i] = 0x00)
  · obtain ⟨hhold, hvalid, hecode, hcount, hbody⟩ := Rx.afterFrame_holdsPacket s.rx (hlen'.trans_le hlen)
    rw [hlen'] at hcount hbody
    rw [hsum.mpr hex]
    exact ⟨hhold, fun _ => ⟨hvalid, hecode, hcount, hbody⟩, absurd hex⟩
  · obtain ⟨hhold, hmismatch⟩ := Rx.afterFrame_mismatch s.rx fun heq => hex (hsum.mp heq)
    exact ⟨hhold, fun h => absurd h hex, fun _ => hmismatch⟩

end Sys2Proof.Machine
end

section
/-! The packet header (42_packet_header R160-R164, R167): a header byte and its fields as numbers, and the two commands that
pack and unpack it. -/

namespace Sys2Proof.Machine

/-- Bits put under a shifted value by `|||` are added to it. -/
theorem toNat_shiftLeft_or {w : Nat} {x y : BitVec w} {n : Nat} (hx : x.toNat * 2 ^ n < 2 ^ w) (hy : y.toNat < 2 ^ n) :
    (x <<< n ||| y).toNat = x.toNat * 2 ^ n + y.toNat := by
  rw [BitVec.toNat_or, BitVec.toNat_shiftLeft, Nat.shiftLeft_eq, Nat.mod_eq_of_lt hx, ← Nat.shiftLeft_eq,
    ← Nat.shiftLeft_add_eq_or_of_lt hy]

/-- The bits from `k` up are 0 exactly when the value fits below them. -/
theorem extractLsb'_top_eq_zero_iff {w k n : Nat} (v : BitVec w) (h : w ≤ k + n) :
    v.extractLsb' k n = 0 ↔ v.toNat < 2 ^ k := by
  have hv : v.toNat / 2 ^ k < 2 ^ n := by
    rw [Nat.div_lt_iff_lt_mul (Nat.two_pow_pos k), ← Nat.pow_add, Nat.add_comm n k]
    exact v.isLt.trans_le (Nat.pow_le_pow_right Nat.two_pos h)
  rw [← BitVec.toNat_inj, BitVec.extractLsb'_toNat, Nat.shiftRight_eq_div_pow, Nat.mod_eq_of_lt hv]
  exact Nat.div_eq_zero_iff_lt (Nat.two_pow_pos k)

/-! A header byte and its fields as numbers (42_packet_header R160, R161). -/

theorem headerPack_toNat (route : BitVec 2) (type : BitVec 4) :
    (headerPack route type).toNat = 4 * type.toNat + route.toNat := by
  rw [headerPack, toNat_shiftLeft_or] <;> simp only [BitVec.toNat_setWidth] <;> omega

theorem headerRoute_toNat (h : Byte) : (headerRoute h).toNat = h.toNat % 4 := by
  rw [headerRoute, BitVec.extractLsb'_toNat, Nat.shiftRight_zero]

theorem headerType_toNat (h : Byte) : (headerType h).toNat = h.toNat / 4 % 16 := by
  rw [headerType, BitVec.extractLsb'_toNat, Nat.shiftRight_eq_div_pow]

theorem headerRsv_toNat (h : Byte) : (headerRsv h).toNat = h.toNat / 64 := by
  rw [headerRsv, BitVec.extractLsb'_toNat, Nat.shiftRight_eq_div_pow]
  omega

/-- The fields as RESULT holds them (42_packet_header R164). -/
theorem headerFields_toNat (h : Byte) :
    (headerFields h).toNat = h.toNat / 64 * 65536 + h.toNat / 4 % 16 * 256 + h.toNat % 4 := by
  have htype : ((headerType h).setWidth 32 <<< 8 ||| (headerRoute h).setWidth 32 : Word).toNat =
      h.toNat / 4 % 16 * 256 + h.toNat % 4 := by
    rw [toNat_shiftLeft_or] <;> simp only [BitVec.toNat_setWidth, headerType_toNat, headerRoute_toNat] <;> omega
  rw [headerFields, BitVec.or_assoc, toNat_shiftLeft_or] <;>
    simp only [htype, BitVec.toNat_setWidth_of_le (show 2 ≤ 32 by decide), headerRsv_toNat] <;> omega

/-- Settles O43: every field is its part of the byte's number (`headerPack_toNat` and the fields' own lemmas). -/
theorem headerRoundTrips : Obligations.HeaderRoundTrips := by
  refine ⟨fun route type => ⟨?_, ?_, ?_⟩, fun h => ?_⟩
  · apply BitVec.eq_of_toNat_eq
    rw [headerRoute_toNat, headerPack_toNat]
    omega
  · apply BitVec.eq_of_toNat_eq
    rw [headerType_toNat, headerPack_toNat]
    omega
  · apply BitVec.eq_of_toNat_eq
    rw [headerRsv_toNat, headerPack_toNat]
    change _ = 0
    omega
  · rw [headerRsv_toNat, headerType_toNat, headerRoute_toNat]
    omega

/-- Settles O40: fields in range are packed whole (`headerPack_toNat`), others stop at the argument check. -/
theorem hdrPackPacksRouteAndType : Obligations.HdrPackPacksRouteAndType := by
  refine ⟨fun s => ⟨fun hroute htype => ?_, fun hbad => checkArg_fail s (decide_eq_true hbad) _⟩,
    commandEncoding_of_lookup rfl⟩
  refine ⟨_, checkArg_pass s (decide_eq_false (by omega)) _, rfl, ?_⟩
  rw [State.finish_result, State.setResult_result, BitVec.toNat_setWidth, headerPack_toNat, BitVec.extractLsb'_toNat,
    BitVec.extractLsb'_toNat, Nat.shiftRight_zero, Nat.shiftRight_zero]
  omega

/-- Settles O41: a byte in ARG0 is split (`headerFields_toNat`), a bit above it fails the argument check. -/
theorem hdrUnpackSplitsHeader : Obligations.HdrUnpackSplitsHeader := by
  have hbyte (s : State) : s.arg0.extractLsb' 8 24 = 0 ↔ s.arg0.toNat < 256 := extractLsb'_top_eq_zero_iff _ le_rfl
  refine ⟨fun s => ⟨fun harg => ?_, fun harg => ?_⟩, commandEncoding_of_lookup rfl⟩
  · refine ⟨_, checkArg_pass s (bne_eq_false_iff_eq.mpr ((hbyte s).mpr harg)) _, rfl, ?_⟩
    rw [State.finish_result, State.setResult_result, headerFields_toNat, BitVec.extractLsb'_toNat, Nat.shiftRight_zero,
      Nat.mod_eq_of_lt harg]
  · exact checkArg_fail s (bne_iff_ne.mpr fun h0 => Nat.not_lt.mpr harg ((hbyte s).mp h0)) _

end Sys2Proof.Machine
end

section
/-! The packet split (42_packet_header R166): `PKT_PARSE` up to its path check, and what it does with a path length in
range. -/

namespace Sys2Proof.Machine

/-! Consuming SRC up to an index, `SRC[i..j)`. -/

theorem consumeSrc_upTo_of_defined {s : State} {i j : Nat} (hij : i ≤ j) (h : s.SrcDefined i j)
    (k : List Byte → Result) : consumeSrc s i (j - i) k = k (s.srcBytes i j) := by
  rw [← Nat.add_sub_of_le hij] at h
  rw [consumeSrc_of_defined h, Nat.add_sub_of_le hij]

/-- A range of SRC that is not all defined faults at a byte of it that is not (10_state R42). -/
theorem consumeSrc_upTo_faultsAtUndefined {s : State} {i j : Nat} (hij : i ≤ j) (h : ¬ s.SrcDefined i j)
    (k : List Byte → Result) : s.FaultsAtUndefined i j (consumeSrc s i (j - i) k) := by
  rcases consumeSrc_cases s i (j - i) k with ⟨off, ⟨hle, hlt, hnone, -⟩, hfault⟩ | ⟨hdef, -⟩
  · exact ⟨off, hle, by omega, hnone, hfault⟩
  · exact absurd (Nat.add_sub_of_le hij ▸ hdef) h

theorem consumeByte_faultsAtUndefined {s : State} {i a b : Nat} (h : Memory.byteAt s.src i = none) (ha : a ≤ i)
    (hb : i < b) (k : Byte → Result) : s.FaultsAtUndefined a b (consumeByte s i k) :=
  ⟨i, ha, hb, h, consumeByte_of_undefined h k⟩

/-- What `PKT_PARSE` does behind its path check: the output check, then the header byte and the payload. -/
def State.splitPacket (s : State) (pl : Byte) : Result :=
  checkOut s (s.srcLen.toNat - 2 - pl.toNat) <|
  consumeByte s 0 fun h =>
  consumeSrc s (2 + pl.toNat) (s.srcLen.toNat - 2 - pl.toNat) fun payload =>
  .next ((s.setResult ((pl.setWidth 32 <<< 24) ||| headerFields h)).putDst payload).finish

/-- A packet of legal length is read from its path length on. -/
theorem execPktParse_of_size {s : State} (hlen : s.srcLen.toNat ≤ s.cfg.srcSize) (hshort : 2 ≤ s.srcLen.toNat) :
    execPktParse s = consumeByte s 1 fun pl =>
      if pl.toNat > s.srcLen.toNat - 2 then .next (s.raiseError .pathOverrun) else s.splitPacket pl := by
  rw [execPktParse, checkSrcLen_pass hlen]
  exact if_neg (Nat.not_lt.mpr hshort)

section PathLength
variable {s : State} {pl : Byte} (hlen : s.srcLen.toNat ≤ s.cfg.srcSize) (hshort : 2 ≤ s.srcLen.toNat)
  (hpl : Memory.byteAt s.src 1 = some pl)
include hlen hshort hpl

/-- A path that does not fit the packet. -/
theorem execPktParse_of_overrun (hpath : s.srcLen.toNat < pl.toNat + 2) :
    execPktParse s = .next (s.raiseError .pathOverrun) := by
  rw [execPktParse_of_size hlen hshort, consumeByte_of_defined hpl, if_pos (by omega)]

theorem execPktParse_of_path (hpath : pl.toNat + 2 ≤ s.srcLen.toNat) : execPktParse s = s.splitPacket pl := by
  rw [execPktParse_of_size hlen hshort, consumeByte_of_defined hpl, if_neg (by omega)]

end PathLength

section Split
variable {s : State} {pl : Byte} (hpath : pl.toNat + 2 ≤ s.srcLen.toNat)
  (hdst : s.srcLen.toNat - 2 - pl.toNat ≤ s.cfg.dstSize)
include hpath hdst

/-- The header byte and the payload are all that is read. -/
theorem State.splitPacket_of_defined {h : Byte} (hh : Memory.byteAt s.src 0 = some h)
    (hdef : s.SrcDefined (2 + pl.toNat) s.srcLen.toNat) :
    s.splitPacket pl = .next ((s.setResult ((pl.setWidth 32 <<< 24) ||| headerFields h)).putDst
      (s.srcBytes (2 + pl.toNat) s.srcLen.toNat)).finish := by
  rw [State.splitPacket, checkOut_pass hdst, consumeByte_of_defined hh, Nat.sub_sub,
    consumeSrc_upTo_of_defined (by omega) hdef]

theorem State.splitPacket_of_undefined
    (hundef : Memory.byteAt s.src 0 = none ∨ ¬ s.SrcDefined (2 + pl.toNat) s.srcLen.toNat) :
    s.FaultsAtUndefined 0 1 (s.splitPacket pl) ∨
      s.FaultsAtUndefined (2 + pl.toNat) s.srcLen.toNat (s.splitPacket pl) := by
  rw [State.splitPacket, checkOut_pass hdst]
  cases hh : Memory.byteAt s.src 0 with
  | none => exact .inl (consumeByte_faultsAtUndefined hh le_rfl Nat.one_pos _)
  | some h =>
    right
    have hpayload := hundef.resolve_left (by simp [hh])
    rw [consumeByte_of_defined hh, Nat.sub_sub]
    exact consumeSrc_upTo_faultsAtUndefined (by omega) hpayload _

end Split

/-- RESULT of `PKT_PARSE` (42_packet_header R166). -/
theorem toNat_pathLength_or_headerFields (pl h : Byte) :
    ((pl.setWidth 32 <<< 24) ||| headerFields h : Word).toNat =
      pl.toNat * 16777216 + h.toNat / 64 * 65536 + h.toNat / 4 % 16 * 256 + h.toNat % 4 := by
  rw [toNat_shiftLeft_or] <;> simp only [BitVec.toNat_setWidth, headerFields_toNat] <;> omega

/-- Settles O42: a packet whose path fits is split (`State.splitPacket_of_defined`), else the first check or byte that
fails. -/
theorem pktParseSplitsPacket : Obligations.PktParseSplitsPacket := by
  refine ⟨fun s hlen hshort => ⟨fun h pl hh hpl hpath hdst hdef => ?_, fun pl => execPktParse_of_overrun hlen hshort,
      fun pl hpl hpath hdst => ?_, fun hpl => ?_, fun pl hpl hpath hdst hundef => ?_⟩,
    fun s => ⟨fun hlen => checkSrcLen_fail hlen _, fun hlen hshort => ?_⟩, commandEncoding_of_lookup rfl⟩
  · refine ⟨_, (execPktParse_of_path hlen hshort hpl hpath).trans (State.splitPacket_of_defined hpath hdst hh hdef), ?_,
      toNat_pathLength_or_headerFields pl h, fun k hk => ?_, fun k hk => ?_⟩
    · rw [Nat.sub_sub, ← State.length_srcBytes s]
      rfl
    · rw [Nat.sub_sub] at hk
      rw [State.finish_dst, State.byteAt_putDst, State.length_srcBytes, if_pos hk, State.getElem?_srcBytes hdef hk]
    · rw [Nat.sub_sub] at hk
      rw [State.finish_dst, State.byteAt_putDst, State.length_srcBytes, if_neg (Nat.not_lt.mpr hk), State.setResult_dst]
  · rw [exec, execPktParse_of_path hlen hshort hpl hpath, State.splitPacket, checkOut_fail hdst]
  · rw [exec, execPktParse_of_size hlen hshort]
    exact consumeByte_faultsAtUndefined hpl (Nat.zero_le 1) hshort _
  · rw [exec, execPktParse_of_path hlen hshort hpl hpath]
    exact State.splitPacket_of_undefined hpath hdst hundef
  · rw [exec, execPktParse, checkSrcLen_pass hlen]
    exact if_pos hshort

end Sys2Proof.Machine
end

section
/-! The channel crypto (43_channel_crypto): the ciphertext block by block, the output of encrypt-then-MAC by index, and
`ENC_MAC` and `CHASH`. -/

namespace Sys2Proof.Machine

/-! Cutting a sequence into pieces and putting pieces of one length together undo each other. -/

theorem length_of_mem_pieces {n k : Nat} {l b : List Byte} (hl : n * k ≤ l.length) (hb : b ∈ pieces n k l) :
    b.length = n := by
  obtain ⟨j, hj⟩ := List.mem_iff_getElem?.mp hb
  have hjk : j < k := length_pieces n k l ▸ (List.getElem?_eq_some_iff.mp hj).1
  have hend : n * j + n ≤ n * k := Nat.mul_le_mul_left n hjk
  rw [getElem?_pieces n k j l hjk, Option.some_inj] at hj
  rw [← hj, List.length_take, List.length_drop]
  omega

theorem pieces_flatten {n : Nat} {bs : List (List Byte)} (h : ∀ b ∈ bs, b.length = n) :
    pieces n bs.length bs.flatten = bs := by
  induction bs with
  | nil => rfl
  | cons b bs ih =>
    obtain ⟨hb, hbs⟩ := List.forall_mem_cons.mp h
    rw [List.flatten_cons, List.length_cons, pieces, List.take_left' hb, List.drop_left' hb, ih hbs]

theorem length_flatten_of_uniform {n : Nat} {bs : List (List Byte)} (h : ∀ b ∈ bs, b.length = n) :
    bs.flatten.length = n * bs.length := by
  rw [List.length_flatten, List.map_congr_left h, List.map_const', List.sum_replicate, smul_eq_mul, Nat.mul_comm]

/-! The ciphertext (43_channel_crypto R182, R183, R188). -/

/-- The blocks of the ciphertext: AES-128 of each block of the padded plaintext (43_channel_crypto R183). -/
def cipherBlocks (secret pt : List Byte) : List (List Byte) :=
  (pieces 16 (ceil16 pt.length / 16) (padBlock pt)).map (aes128 (secret.take 16))

theorem ecbEncrypt_eq_flatten (secret pt : List Byte) : ecbEncrypt secret pt = (cipherBlocks secret pt).flatten := by
  rw [cipherBlocks, ← length_padBlock]
  rfl

theorem length_cipherBlocks (secret pt : List Byte) : (cipherBlocks secret pt).length = ceil16 pt.length / 16 := by
  rw [cipherBlocks, List.length_map, length_pieces]

theorem length_of_mem_cipherBlocks {secret pt b : List Byte} (hs : 16 ≤ secret.length)
    (hb : b ∈ cipherBlocks secret pt) : b.length = 16 := by
  obtain ⟨p, hp, rfl⟩ := List.mem_map.mp hb
  have hpad : 16 * (ceil16 pt.length / 16) ≤ (padBlock pt).length := length_padBlock pt ▸ Nat.mul_div_le ..
  exact length_aes128 (List.length_take_of_le hs) (length_of_mem_pieces hpad hp)

theorem length_ecbEncrypt {secret : List Byte} (hs : 16 ≤ secret.length) (pt : List Byte) :
    (ecbEncrypt secret pt).length = ceil16 pt.length := by
  have hblocks := Nat.dvd_of_mod_eq_zero (ceil16_spec pt.length).1
  rw [ecbEncrypt_eq_flatten, length_flatten_of_uniform fun _ => length_of_mem_cipherBlocks hs, length_cipherBlocks,
    Nat.mul_div_cancel' hblocks]

/-- Settles O46: the ciphertext is `cipherBlocks` put together, and cut again it gives them back (`pieces_flatten`). -/
theorem ciphertextIsBlockwiseAes : Obligations.CiphertextIsBlockwiseAes := by
  intro secret pt hs
  refine ⟨length_ecbEncrypt hs pt, fun j hj => ?_⟩
  have hmod := (ceil16_spec pt.length).1
  have hj : j < ceil16 pt.length / 16 := by omega
  have hcut : pieces 16 _ (ecbEncrypt secret pt) = cipherBlocks secret pt :=
    ecbEncrypt_eq_flatten secret pt ▸ pieces_flatten fun _ => length_of_mem_cipherBlocks hs
  apply Option.some_inj.mp
  rw [← getElem?_pieces _ _ _ _ (length_cipherBlocks secret pt ▸ hj), hcut, cipherBlocks, List.getElem?_map,
    getElem?_pieces _ _ _ _ hj]
  rfl

/-- The zero bytes of the padding may stand in the plaintext already (43_channel_crypto R189). -/
theorem padBlock_append_zeros {pt : List Byte} {k : Nat} (h : ceil16 (pt.length + k) = ceil16 pt.length) :
    padBlock (pt ++ zeros k) = padBlock pt := by
  obtain ⟨-, hle, -⟩ := ceil16_spec (pt.length + k)
  have hzeros : zeros k ++ zeros (ceil16 pt.length - (pt.length + k)) = zeros (ceil16 pt.length - pt.length) := by
    rw [zeros, zeros, List.replicate_append_replicate, zeros]
    congr 1
    omega
  rw [padBlock, List.length_append, length_zeros, h, List.append_assoc, hzeros, padBlock]

/-- Settles O47: the ciphertext sees the plaintext only as padded (`padBlock_append_zeros`), and the MAC sees only the
ciphertext. -/
theorem trailingZerosEncryptAlike : Obligations.TrailingZerosEncryptAlike := by
  refine ⟨fun secret pt k h => ?_, fun _ _ => rfl⟩
  have hpad := padBlock_append_zeros h
  have hct : ecbEncrypt secret (pt ++ zeros k) = ecbEncrypt secret pt := by rw [ecbEncrypt, hpad, ecbEncrypt]
  exact ⟨hpad, by rw [encryptThenMac, hct, encryptThenMac]⟩

/-! The output of encrypt-then-MAC by index (43_channel_crypto R184, R185). -/

theorem length_encryptThenMac {secret : List Byte} (hs : 16 ≤ secret.length) (pt : List Byte) :
    (encryptThenMac secret pt).length = 2 + ceil16 pt.length := by
  rw [encryptThenMac, List.length_append, length_macOf, length_ecbEncrypt hs]

theorem getElem?_encryptThenMac_mac (secret pt : List Byte) {k : Nat} (hk : k < 2) :
    (encryptThenMac secret pt)[k]? = (hmacSha256 (secret.take 32) (ecbEncrypt secret pt))[k]? := by
  rw [encryptThenMac, List.getElem?_append_left (by rwa [length_macOf]), macOf]
  exact List.getElem?_take_of_lt hk

theorem getElem?_encryptThenMac_ciphertext (secret pt : List Byte) (k : Nat) :
    (encryptThenMac secret pt)[2 + k]? = (ecbEncrypt secret pt)[k]? := by
  rw [encryptThenMac, List.getElem?_append_right (by simp), length_macOf, Nat.add_sub_cancel_left]

theorem getD_encryptThenMac_mac (secret pt : List Byte) {k : Nat} (hk : k < 2) :
    (encryptThenMac secret pt).getD k 0 = (hmacSha256 (secret.take 32) (ecbEncrypt secret pt)).getD k 0 := by
  rw [List.getD_eq_getElem?_getD, getElem?_encryptThenMac_mac secret pt hk, List.getD_eq_getElem?_getD]

/-! `ENC_MAC` (43_channel_crypto R186, R187). -/

/-- AES-128 gets its key from a SECRET_LEN of at least 16 (10_state R38). -/
theorem le_length_secretBytes {s : State} (h : 16 ≤ s.secretLen.toNat) : 16 ≤ s.secretBytes.length := by
  rw [State.secretBytes, List.length_take, Vector.length_toList]
  omega

/-- The state `ENC_MAC` leaves when its output is `e`: RESULT is the first two bytes of it. -/
def State.encMacDone (s : State) (e : List Byte) : State :=
  ((s.putDst e).setResult (pairWord (e.getD 0 0) (e.getD 1 0))).finish

theorem State.encMacDone_eq (s : State) (e : List Byte) :
    s.encMacDone e = { s with
      dst := (s.encMacDone e).dst, dstLen := BitVec.ofNat 18 e.length, result := (s.encMacDone e).result,
      cuBusy := false, done := true, ecode := .noError, esub := .noError } := rfl

theorem pairWord_eq_append (hi lo : Byte) : pairWord hi lo = (0 : BitVec 16) ++ hi ++ lo :=
  checksumWord_eq_append (lo, hi)

theorem State.byteAt_encMacDone (s : State) (e : List Byte) (k : Nat) :
    Memory.byteAt (s.encMacDone e).dst k = if k < e.length then e[k]? else Memory.byteAt s.dst k :=
  s.byteAt_putDst e k

/-- What `ENC_MAC` does behind its three checks. -/
theorem execEncMac_of_checked {s : State} (hlen : s.srcLen.toNat ≤ s.cfg.srcSize) (hsec : s.SecretLegal)
    (hdst : 2 + ceil16 s.srcLen.toNat ≤ s.cfg.dstSize) :
    execEncMac s = consumeSrc s 0 s.srcLen.toNat fun pt => .next (s.encMacDone (encryptThenMac s.secretBytes pt)) := by
  rw [execEncMac, checkSrcLen_pass hlen, checkSecretLen_pass hsec, checkOut_pass hdst]
  rfl

/-- Settles O45: on ready operands DST is the output of `encryptThenMac` by index, else the first check or byte that
fails. -/
theorem encMacWritesMacAndCiphertext : Obligations.EncMacWritesMacAndCiphertext := by
  refine ⟨fun s => ⟨fun hready hsec h16 hdst => ?_, fun hlen => checkSrcLen_fail hlen _, fun hlen hsec => ?_,
    fun hlen hsec hdst => ?_, fun hlen hsec hdst hundef => ?_⟩, commandEncoding_of_lookup rfl⟩
  · have hcount : (encryptThenMac s.secretBytes s.srcData).length = 2 + ceil16 s.srcLen.toNat := by
      rw [length_encryptThenMac (le_length_secretBytes h16), length_srcData]
    have hdone : exec .encMac s = .next (s.encMacDone (encryptThenMac s.secretBytes s.srcData)) :=
      (execEncMac_of_checked hready.1 hsec hdst).trans (consumeSrc_srcData hready.2 _)
    have inside {k : Nat} (hk : k < 2 + ceil16 s.srcLen.toNat) :=
      (s.byteAt_encMacDone (encryptThenMac s.secretBytes s.srcData) k).trans (if_pos (hcount ▸ hk))
    refine ⟨_, hdone, ?_, fun k hk => ?_, fun k hk => ?_, fun k hk => ?_, ?_⟩
    · rw [← hcount]
      exact s.encMacDone_eq _
    · exact (inside (by omega)).trans (getElem?_encryptThenMac_mac _ _ hk)
    · exact (inside (by omega)).trans (getElem?_encryptThenMac_ciphertext _ _ k)
    · rw [State.byteAt_encMacDone, hcount, if_neg (Nat.not_lt.mpr hk)]
    · rw [← getD_encryptThenMac_mac _ _ Nat.zero_lt_two, ← getD_encryptThenMac_mac _ _ Nat.one_lt_two]
      exact pairWord_eq_append ..
  · rw [exec, execEncMac, checkSrcLen_pass hlen, checkSecretLen_fail hsec]
  · rw [exec, execEncMac, checkSrcLen_pass hlen, checkSecretLen_pass hsec, checkOut_fail hdst]
  · rw [exec, execEncMac_of_checked hlen hsec hdst]
    exact consumeSrc_faultsAtUndefined hundef _

/-- A run of `ENC_MAC` that succeeds leaves the output of its own secret and plaintext. -/
theorem eq_encMacDone_of_noError {s t : State} (h : exec .encMac s = .next t) (hok : t.ecode = .noError) :
    t = s.encMacDone (encryptThenMac s.secretBytes s.srcData) := by
  rcases execEncMac_next h with rfl | rfl | rfl | ⟨-, -, -, rfl⟩
  case inr.inr.inr => rfl
  all_goals cases hok

/-- Settles O56: both runs leave the same output (`eq_encMacDone_of_noError`); RESULT, DST_LEN and the bytes it counts
are read off it. -/
theorem encMacDependsOnlyOnSecretAndPlaintext : Obligations.EncMacDependsOnlyOnSecretAndPlaintext := by
  intro s s' t t' _ _ hdata hsecret h h' hok hok'
  cases eq_encMacDone_of_noError h hok
  cases eq_encMacDone_of_noError h' hok'
  rw [← hsecret, ← hdata]
  refine ⟨rfl, rfl, fun k hk => ?_⟩
  have hin := hk.trans_le ((BitVec.toNat_ofNat ..).trans_le (Nat.mod_le ..))
  rw [State.byteAt_encMacDone, State.byteAt_encMacDone, if_pos hin, if_pos hin]

/-! `CHASH` (43_channel_crypto R180, R181). -/

/-- Settles O44: `CHASH` is its one check, and RESULT is the channel hash under zeros. -/
theorem chashHashesSecret : Obligations.ChashHashesSecret := by
  refine ⟨fun s => ⟨fun hsec => ?_, fun hsec => checkSecretLen_fail hsec _⟩, commandEncoding_of_lookup rfl⟩
  have hresult : (channelHash s.secretBytes).setWidth 32 = (0 : BitVec 24) ++ channelHash s.secretBytes :=
    BitVec.setWidth_eq_append (by decide)
  rw [exec, execChash, checkSecretLen_pass hsec, hresult]
  rfl

end Sys2Proof.Machine
end

section
/-! Group text (44_group_text): the plaintext and the packet by index, `GTXT_BUILD` and `GTXT_PACKET`, and the room DST has
at the default sizes. -/

namespace Sys2Proof.Machine

/-! The plaintext by index (44_group_text R200). -/

theorem getElem?_groupText_timestamp (ts : Word) (sender message : List Byte) {k : Nat} (hk : k < 4) :
    (groupText ts sender message)[k]? = some (ts.extractLsb' (8 * k) 8) := by
  interval_cases k <;> rfl

/-- Behind the timestamp and the text type stand the sender, the separator and the message. -/
theorem getElem?_groupText_text (ts : Word) (sender message : List Byte) (k : Nat) :
    (groupText ts sender message)[5 + k]? = (sender ++ 0x3A :: 0x20 :: message)[k]? := by
  have hcut : groupText ts sender message = (u32le ts ++ [0x00]) ++ (sender ++ 0x3A :: 0x20 :: message) := by
    simp only [groupText, List.append_assoc, List.cons_append, List.nil_append]
  rw [hcut]
  exact (List.getElem?_append_right (Nat.le_add_right 5 k)).trans (by simp)

theorem getElem?_groupText_sender (ts : Word) {sender : List Byte} (message : List Byte) {k : Nat}
    (hk : k < sender.length) : (groupText ts sender message)[5 + k]? = sender[k]? := by
  rw [getElem?_groupText_text, List.getElem?_append_left hk]

theorem getElem?_groupText_separator (ts : Word) (sender message : List Byte) :
    (groupText ts sender message)[5 + sender.length]? = some 0x3A ∧
      (groupText ts sender message)[6 + sender.length]? = some 0x20 := by
  constructor
  · rw [getElem?_groupText_text]
    simp
  · rw [show 6 + sender.length = 5 + (sender.length + 1) by omega, getElem?_groupText_text]
    simp

theorem getElem?_groupText_message (ts : Word) {sender : List Byte} (message : List Byte) {k : Nat}
    (hk : sender.length ≤ k) : (groupText ts sender message)[7 + k]? = message[k - sender.length]? := by
  rw [show 7 + k = 5 + (k + 2) by omega, getElem?_groupText_text, List.getElem?_append_right (by omega),
    show k + 2 - sender.length = k - sender.length + 1 + 1 by omega]
  rfl

/-! Consuming the sender and then the message, `SRC[0..ARG1)` and `SRC[ARG1..SRC_LEN)` (44_group_text R201, R203). -/

/-- A fault of some undefined byte of a range is one of a wider range. -/
theorem State.FaultsAtUndefined.mono {s : State} {i i' j j' : Nat} {r : Result} (h : s.FaultsAtUndefined i j r)
    (hi : i' ≤ i) (hj : j ≤ j') : s.FaultsAtUndefined i' j' r := by
  obtain ⟨k, hik, hkj, hnone, hfault⟩ := h
  exact ⟨k, hi.trans hik, hkj.trans_le hj, hnone, hfault⟩

/-- What both group-text commands do behind their checks: read the sender and the message, and write DST. -/
def State.writeText (s : State) (out : List Byte → List Byte → List Byte) : Result :=
  consumeSrc s 0 s.arg1.toNat fun sender =>
  consumeSrc s s.arg1.toNat (s.srcLen.toNat - s.arg1.toNat) fun message =>
  .next (s.putDst (out sender message)).finish

/-- The plaintext of the sender and the message in SRC. -/
def State.srcText (s : State) : List Byte :=
  groupText s.arg0 (s.srcBytes 0 s.arg1.toNat) (s.srcBytes s.arg1.toNat s.srcLen.toNat)

theorem State.writeText_of_sender {s : State} (hsender : s.SrcDefined 0 s.arg1.toNat)
    (out : List Byte → List Byte → List Byte) :
    s.writeText out = consumeSrc s s.arg1.toNat (s.srcLen.toNat - s.arg1.toNat) fun message =>
      .next (s.putDst (out (s.srcBytes 0 s.arg1.toNat) message)).finish :=
  consumeSrc_upTo_of_defined (Nat.zero_le _) hsender _

section Text
variable {s : State} (harg : s.arg1.toNat ≤ s.srcLen.toNat)
include harg

theorem State.writeText_of_defined (h : s.SrcDefined 0 s.srcLen.toNat) (out : List Byte → List Byte → List Byte) :
    s.writeText out =
      .next (s.putDst (out (s.srcBytes 0 s.arg1.toNat) (s.srcBytes s.arg1.toNat s.srcLen.toNat))).finish := by
  have hsender : s.SrcDefined 0 s.arg1.toNat := fun k hk hlt => h k hk (hlt.trans_le harg)
  have hmessage : s.SrcDefined s.arg1.toNat s.srcLen.toNat := fun k _ hlt => h k (Nat.zero_le k) hlt
  rw [State.writeText_of_sender hsender, consumeSrc_upTo_of_defined harg hmessage]

/-- The undefined byte is the sender's, or, when the sender is defined, the message's. -/
theorem State.writeText_of_undefined (h : ¬ s.SrcDefined 0 s.srcLen.toNat) (out : List Byte → List Byte → List Byte) :
    s.FaultsAtUndefined 0 s.srcLen.toNat (s.writeText out) := by
  by_cases hsender : s.SrcDefined 0 s.arg1.toNat
  · have hmessage : ¬ s.SrcDefined s.arg1.toNat s.srcLen.toNat := fun hm =>
      h fun k hk hlt => (Nat.lt_or_ge k s.arg1.toNat).elim (hsender k hk) (hm k · hlt)
    rw [State.writeText_of_sender hsender]
    exact (consumeSrc_upTo_faultsAtUndefined harg hmessage _).mono (Nat.zero_le _) le_rfl
  · exact (consumeSrc_faultsAtUndefined hsender _).mono le_rfl harg

theorem State.length_srcText : s.srcText.length = s.srcLen.toNat + 7 := by
  rw [State.srcText, length_groupText, State.length_srcBytes, State.length_srcBytes]
  omega

end Text

/-- `DST_LEN` and the status of a command that writes DST alone. -/
theorem State.finish_putDst_eq (s : State) (bs : List Byte) :
    (s.putDst bs).finish = { s with
      dst := (s.putDst bs).finish.dst, dstLen := BitVec.ofNat 18 bs.length,
      cuBusy := false, done := true, ecode := .noError, esub := .noError } := rfl

theorem State.byteAt_finish_putDst (s : State) (bs : List Byte) (k : Nat) :
    Memory.byteAt (s.putDst bs).finish.dst k = if k < bs.length then bs[k]? else Memory.byteAt s.dst k :=
  s.byteAt_putDst bs k

/-! `GTXT_BUILD` (44_group_text R201). -/

theorem execGtxtBuild_of_arg {s : State} (hlen : s.srcLen.toNat ≤ s.cfg.srcSize) (harg : s.arg1.toNat ≤ s.srcLen.toNat) :
    execGtxtBuild s = checkOut s (s.srcLen.toNat + 7) (s.writeText (groupText s.arg0)) := by
  rw [execGtxtBuild, checkSrcLen_pass hlen, checkArg_pass s (decide_eq_false (Nat.not_lt.mpr harg))]
  rfl

/-- Settles O50: on ready operands DST is `State.srcText` by index, else the first check or byte that fails. -/
theorem gtxtBuildWritesPlaintext : Obligations.GtxtBuildWritesPlaintext := by
  refine ⟨fun s => ⟨fun ⟨hlen, hdef⟩ harg hdst => ?_, fun hlen => checkSrcLen_fail hlen _, fun hlen harg => ?_,
    fun hlen harg hdst => ?_, fun hlen harg hdst hundef => ?_⟩, commandEncoding_of_lookup rfl⟩
  · have hcount := State.length_srcText harg
    have hdone : exec .gtxtBuild s = .next (s.putDst s.srcText).finish := by
      rw [exec, execGtxtBuild_of_arg hlen harg, checkOut_pass hdst, State.writeText_of_defined harg hdef]
      rfl
    have hsender : (s.srcBytes 0 s.arg1.toNat).length = s.arg1.toNat := State.length_srcBytes ..
    obtain ⟨hcolon, hspace⟩ := hsender ▸ getElem?_groupText_separator s.arg0 (s.srcBytes 0 s.arg1.toNat)
      (s.srcBytes s.arg1.toNat s.srcLen.toNat)
    have inside {k : Nat} (hk : k < s.srcLen.toNat + 7) :=
      (s.byteAt_finish_putDst s.srcText k).trans (if_pos (hcount ▸ hk))
    refine ⟨_, hdone, ?_, fun k hk => ?_, inside (by omega), fun k hk => ?_, (inside (by omega)).trans hcolon,
      (inside (by omega)).trans hspace, fun k hle hlt => ?_, fun k hk => ?_⟩
    · rw [← hcount]
      exact s.finish_putDst_eq _
    · exact (inside (by omega)).trans (getElem?_groupText_timestamp _ _ _ hk)
    · rw [inside (by omega), State.srcText, getElem?_groupText_sender _ _ (hsender.symm ▸ hk),
        State.getElem?_srcBytes (fun i hi hlt => hdef i hi (hlt.trans_le harg)) hk, Nat.zero_add]
    · rw [inside (by omega), State.srcText, getElem?_groupText_message _ _ (hsender.symm ▸ hle), hsender,
        State.getElem?_srcBytes (fun i _ hi => hdef i (Nat.zero_le i) hi) (by omega), Nat.add_sub_of_le hle]
    · rw [State.byteAt_finish_putDst, hcount, if_neg (Nat.not_lt.mpr hk)]
  · rw [exec, execGtxtBuild, checkSrcLen_pass hlen, checkArg_fail s (decide_eq_true harg)]
  · rw [exec, execGtxtBuild_of_arg hlen harg, checkOut_fail hdst]
  · rw [exec, execGtxtBuild_of_arg hlen harg, checkOut_pass hdst]
    exact State.writeText_of_undefined harg hundef _

/-! The packet by index (44_group_text R202, R204). -/

/-- The packet of the sender and the message in SRC. -/
def State.srcPacket (s : State) : List Byte :=
  groupTextPacket s.secretBytes (s.srcBytes 0 s.arg1.toNat) (s.srcBytes s.arg1.toNat s.srcLen.toNat) s.arg0

/-- Header, path length and channel hash stand before the MAC and the ciphertext. -/
theorem State.srcPacket_eq_cons (s : State) :
    s.srcPacket = 0x15 :: 0x00 :: channelHash s.secretBytes :: encryptThenMac s.secretBytes s.srcText := rfl

theorem State.length_srcPacket {s : State} (harg : s.arg1.toNat ≤ s.srcLen.toNat) (h16 : 16 ≤ s.secretLen.toNat) :
    s.srcPacket.length = 5 + ceil16 (s.srcLen.toNat + 7) := by
  simp only [State.srcPacket_eq_cons, List.length_cons, length_encryptThenMac (le_length_secretBytes h16),
    State.length_srcText harg]
  omega

theorem State.getElem?_srcPacket_encrypted (s : State) (k : Nat) :
    s.srcPacket[3 + k]? = (encryptThenMac s.secretBytes s.srcText)[k]? := by
  rw [State.srcPacket_eq_cons, Nat.add_comm]
  rfl

/-- The channel hash is the first byte of the digest (43_channel_crypto R180). -/
theorem some_channelHash (secret : List Byte) : some (channelHash secret) = (sha256 secret)[0]? := by
  rw [channelHash, List.getD_eq_getElem?_getD, List.getElem?_eq_getElem (by simp), Option.getD_some]

/-! `GTXT_PACKET` (44_group_text R203). -/

theorem execGtxtPacket_of_arg {s : State} (hlen : s.srcLen.toNat ≤ s.cfg.srcSize) (hsec : s.SecretLegal)
    (harg : s.arg1.toNat ≤ s.srcLen.toNat) :
    execGtxtPacket s = checkOut s (5 + ceil16 (s.srcLen.toNat + 7))
      (s.writeText fun sender message => groupTextPacket s.secretBytes sender message s.arg0) := by
  rw [execGtxtPacket, checkSrcLen_pass hlen, checkSecretLen_pass hsec,
    checkArg_pass s (decide_eq_false (Nat.not_lt.mpr harg))]
  rfl

/-- Settles O51: on ready operands DST is `State.srcPacket` by index; else the first check or byte
that fails. -/
theorem gtxtPacketWritesPacket : Obligations.GtxtPacketWritesPacket := by
  refine ⟨?_, fun s => ⟨fun hlen => checkSrcLen_fail hlen _, fun hlen hsec => ?_, fun hlen hsec harg => ?_,
    fun hlen hsec harg hdst => ?_, fun hlen hsec harg hdst hundef => ?_⟩, commandEncoding_of_lookup rfl⟩
  · rintro s pt ct hpt hct ⟨hlen, hdef⟩ hsec h16 harg hdst
    obtain rfl : pt = s.srcText := hpt
    subst hct
    have hcount := State.length_srcPacket harg h16
    have hdone : exec .gtxtPacket s = .next (s.putDst s.srcPacket).finish := by
      rw [exec, execGtxtPacket_of_arg hlen hsec harg, checkOut_pass hdst, State.writeText_of_defined harg hdef]
      rfl
    have inside {k : Nat} (hk : k < 5 + ceil16 (s.srcLen.toNat + 7)) :=
      (s.byteAt_finish_putDst s.srcPacket k).trans (if_pos (hcount ▸ hk))
    refine ⟨_, hdone, ?_, inside (by omega), inside (by omega), (inside (by omega)).trans (some_channelHash _),
      fun k hk => ?_, fun k hk => ?_, fun k hk => ?_⟩
    · rw [← hcount]
      exact s.finish_putDst_eq _
    · rw [inside (by omega), State.getElem?_srcPacket_encrypted, getElem?_encryptThenMac_mac _ _ hk]
    · rw [inside (by omega), show 5 + k = 3 + (2 + k) by omega, State.getElem?_srcPacket_encrypted,
        getElem?_encryptThenMac_ciphertext]
    · rw [State.byteAt_finish_putDst, hcount, if_neg (Nat.not_lt.mpr hk)]
  · rw [exec, execGtxtPacket, checkSrcLen_pass hlen, checkSecretLen_fail hsec]
  · rw [exec, execGtxtPacket, checkSrcLen_pass hlen, checkSecretLen_pass hsec, checkArg_fail s (decide_eq_true harg)]
  · rw [exec, execGtxtPacket_of_arg hlen hsec harg, checkOut_fail hdst]
  · rw [exec, execGtxtPacket_of_arg hlen hsec harg, checkOut_pass hdst]
    exact State.writeText_of_undefined harg hundef _

/-! OUT_OVF (44_group_text R205): every check but the output check, when it has room, keeps an answer free of it. -/

/-- The answer is no state with sub-code OUT_OVF. -/
def FreeOfOutOvf (r : Result) : Prop :=
  ∀ t, r = .next t → t.esub ≠ .outOvf

theorem freeOfOutOvf_raiseError (s : State) {sub : ESub} (h : sub ≠ .outOvf) :
    FreeOfOutOvf (.next (s.raiseError sub)) := by
  rintro _ ⟨⟩
  exact h

theorem freeOfOutOvf_finish (s : State) : FreeOfOutOvf (.next s.finish) := by
  rintro _ ⟨⟩
  exact ESub.noConfusion

section Checks
variable {s : State} {k : Result}

theorem freeOfOutOvf_checkSrcLen (h : s.srcLen.toNat ≤ s.cfg.srcSize → FreeOfOutOvf k) :
    FreeOfOutOvf (checkSrcLen s k) := by
  intro t ht
  rcases checkSrcLen_next ht with rfl | ⟨hlen, ht⟩
  exacts [freeOfOutOvf_raiseError s (by decide) _ rfl, h hlen t ht]

theorem freeOfOutOvf_checkSecretLen (h : FreeOfOutOvf k) : FreeOfOutOvf (checkSecretLen s k) := by
  intro t ht
  rcases checkSecretLen_next ht with rfl | ⟨-, ht⟩
  exacts [freeOfOutOvf_raiseError s (by decide) _ rfl, h t ht]

theorem freeOfOutOvf_checkArg {bad : Bool} (h : FreeOfOutOvf k) : FreeOfOutOvf (checkArg s bad k) := by
  intro t ht
  rcases checkArg_next ht with rfl | ⟨-, ht⟩
  exacts [freeOfOutOvf_raiseError s (by decide) _ rfl, h t ht]

theorem freeOfOutOvf_checkOut {len : Nat} (hlen : len ≤ s.cfg.dstSize) (h : FreeOfOutOvf k) :
    FreeOfOutOvf (checkOut s len k) :=
  (checkOut_pass hlen k).symm ▸ h

theorem freeOfOutOvf_ite {p : Prop} [Decidable p] {sub : ESub} (hsub : sub ≠ .outOvf) (h : ¬ p → FreeOfOutOvf k) :
    FreeOfOutOvf (if p then .next (s.raiseError sub) else k) := by
  split
  exacts [freeOfOutOvf_raiseError s hsub, h ‹_›]

end Checks

theorem freeOfOutOvf_consumeSrc {s : State} {i n : Nat} {k : List Byte → Result} (h : ∀ bs, FreeOfOutOvf (k bs)) :
    FreeOfOutOvf (consumeSrc s i n k) :=
  fun t ht => h _ t (consumeSrc_next ht).2

theorem freeOfOutOvf_consumeByte {s : State} {i : Nat} {k : Byte → Result} (h : ∀ b, FreeOfOutOvf (k b)) :
    FreeOfOutOvf (consumeByte s i k) := by
  intro t ht
  obtain ⟨b, -, ht⟩ := consumeByte_next ht
  exact h b t ht

/-- At the default sizes DST has room for what each command writes: with `SRC_LEN` checked, its output check passes. -/
theorem exec_freeOfOutOvf {s : State} {i : Instr} (hsrc : s.cfg.srcSize = 65536) (hdst : s.cfg.dstSize = 131072)
    (hi : IsCommand i) : FreeOfOutOvf (exec i s) := by
  have hceil (n : Nat) := ceil16_spec n
  cases i with
  | csumClr => exact freeOfOutOvf_finish _
  | csumAcc => exact freeOfOutOvf_checkSrcLen fun _ => freeOfOutOvf_consumeSrc fun _ => freeOfOutOvf_finish _
  | csumCompute =>
    exact freeOfOutOvf_checkSrcLen fun _ => freeOfOutOvf_checkOut (by omega) <|
      freeOfOutOvf_consumeSrc fun _ => freeOfOutOvf_finish _
  | csumVerify =>
    exact freeOfOutOvf_checkSrcLen fun _ => freeOfOutOvf_checkArg <|
      freeOfOutOvf_consumeSrc fun _ => freeOfOutOvf_finish _
  | frameEncode =>
    exact freeOfOutOvf_checkSrcLen fun hlen => freeOfOutOvf_ite (by decide) fun _ =>
      freeOfOutOvf_checkOut (by omega) <| freeOfOutOvf_consumeSrc fun _ => freeOfOutOvf_finish _
  | hdrPack | hdrUnpack => exact freeOfOutOvf_checkArg (freeOfOutOvf_finish _)
  | pktParse =>
    exact freeOfOutOvf_checkSrcLen fun hlen => freeOfOutOvf_ite (by decide) fun _ =>
      freeOfOutOvf_consumeByte fun pl => freeOfOutOvf_ite (by decide) fun _ => freeOfOutOvf_checkOut (by omega) <|
      freeOfOutOvf_consumeByte fun _ => freeOfOutOvf_consumeSrc fun _ => freeOfOutOvf_finish _
  | chash => exact freeOfOutOvf_checkSecretLen (freeOfOutOvf_finish _)
  | encMac =>
    exact freeOfOutOvf_checkSrcLen fun hlen => freeOfOutOvf_checkSecretLen <|
      freeOfOutOvf_checkOut (by have := hceil s.srcLen.toNat; omega) <|
      freeOfOutOvf_consumeSrc fun _ => freeOfOutOvf_finish _
  | gtxtBuild =>
    exact freeOfOutOvf_checkSrcLen fun hlen => freeOfOutOvf_checkArg <| freeOfOutOvf_checkOut (by omega) <|
      freeOfOutOvf_consumeSrc fun _ => freeOfOutOvf_consumeSrc fun _ => freeOfOutOvf_finish _
  | gtxtPacket =>
    exact freeOfOutOvf_checkSrcLen fun hlen => freeOfOutOvf_checkSecretLen <| freeOfOutOvf_checkArg <|
      freeOfOutOvf_checkOut (by have := hceil (s.srcLen.toNat + 7); omega) <|
      freeOfOutOvf_consumeSrc fun _ => freeOfOutOvf_consumeSrc fun _ => freeOfOutOvf_finish _
  | rxByte | rxAck | rxEos | rxRst => cases hi

/-- Settles O52: `exec_freeOfOutOvf`, and the padded length is the least multiple of 16 that is not below
(`ceil16_spec`). -/
theorem defaultSizesNeverOverflowDst : Obligations.DefaultSizesNeverOverflowDst := by
  refine ⟨fun s t i hsrc hdst hi => exec_freeOfOutOvf hsrc hdst hi t, fun n hn => ?_, rfl, fun n => ?_⟩
  all_goals
    have hceil := ceil16_spec (n + 7)
    omega

end Sys2Proof.Machine
end

section
/-! The primitives (45_primitives): the block key of HMAC-SHA256 pads a key with zero bytes, and the check vectors. -/

namespace Sys2Proof.Machine

theorem zeros_append_zeros (m n : Nat) : zeros m ++ zeros n = zeros (m + n) :=
  List.replicate_append_replicate

/-! The block key (45_primitives R241). -/

theorem hmacBlockKey_of_le {k : List Byte} (h : k.length ≤ 64) : hmacBlockKey k = k ++ zeros (64 - k.length) :=
  if_pos h

theorem hmacBlockKey_of_lt {k : List Byte} (h : 64 < k.length) : hmacBlockKey k = sha256 k ++ zeros 32 :=
  if_neg (Nat.not_le.mpr h)

@[simp] theorem length_hmacBlockKey (k : List Byte) : (hmacBlockKey k).length = 64 := by
  rcases Nat.lt_or_ge 64 k.length with h | h
  · rw [hmacBlockKey_of_lt h, List.length_append, length_sha256, length_zeros]
  · rw [hmacBlockKey_of_le h, List.length_append, length_zeros, Nat.add_sub_cancel' h]

/-- The zero bytes of the block key may stand in the key already. -/
theorem hmacBlockKey_append_zeros {k : List Byte} {z : Nat} (h : k.length + z ≤ 64) :
    hmacBlockKey (k ++ zeros z) = hmacBlockKey k := by
  have hlen : (k ++ zeros z).length = k.length + z := by rw [List.length_append, length_zeros]
  have hfill : z + (64 - (k.length + z)) = 64 - k.length := by omega
  rw [hmacBlockKey_of_le (hlen ▸ h), hlen, List.append_assoc, zeros_append_zeros, hfill,
    hmacBlockKey_of_le (Nat.le_of_add_right_le h)]

/-- HMAC sees the key only through its block key (45_primitives R240). -/
theorem hmacSha256_congr_blockKey {k k' : List Byte} (h : hmacBlockKey k = hmacBlockKey k') (m : List Byte) :
    hmacSha256 k m = hmacSha256 k' m := by
  rw [hmacSha256, h, hmacSha256]

theorem hmacSha256_append_zeros {k : List Byte} {z : Nat} (h : k.length + z ≤ 64) (m : List Byte) :
    hmacSha256 (k ++ zeros z) m = hmacSha256 k m :=
  hmacSha256_congr_blockKey (hmacBlockKey_append_zeros h) m

/-- The MAC takes a secret of at most 32 bytes whole as its key (43_channel_crypto R184). -/
theorem macOf_of_le {secret : List Byte} (h : secret.length ≤ 32) (ct : List Byte) :
    macOf secret ct = (hmacSha256 secret ct).take 2 := by
  rw [macOf, macKeyLen, macLen, List.take_of_length_le h]

theorem macOf_append_zeros {secret : List Byte} (h : secret.length ≤ 32) (ct : List Byte) :
    macOf (secret ++ zeros (32 - secret.length)) ct = macOf secret ct := by
  have hfill : secret.length + (32 - secret.length) = 32 := Nat.add_sub_cancel' h
  have hpadded : (secret ++ zeros (32 - secret.length)).length ≤ 32 := by
    rw [List.length_append, length_zeros, hfill]
  rw [macOf_of_le hpadded, hmacSha256_append_zeros (by omega), macOf_of_le h]

/-- Settles O48: appended zero bytes do not change the block key (`hmacBlockKey_append_zeros`), through which alone HMAC
sees its key. -/
theorem zeroPaddedKeyGivesSameMac : Obligations.ZeroPaddedKeyGivesSameMac :=
  ⟨fun k m => ⟨rfl, length_hmacBlockKey k, length_hmacSha256 k m⟩,
    fun _ => ⟨hmacBlockKey_of_le, hmacBlockKey_of_lt⟩,
    fun _ m _ h => hmacSha256_append_zeros h m,
    fun _ _ => rfl,
    fun _ ct h => macOf_append_zeros h ct⟩

/-- Settles O49: the kernel computes each check vector; every digest has 32 bytes by `length_sha256`. -/
theorem primitiveCheckVectors : Obligations.PrimitiveCheckVectors := by
  refine ⟨?aes128, ?sha256OneBlock, ?sha256TwoBlocks, ?hmacSha256, length_sha256⟩
  case aes128 => decide +kernel
  case sha256OneBlock => decide +kernel
  case sha256TwoBlocks => decide +kernel
  case hmacSha256 => decide +kernel

end Sys2Proof.Machine
end

section
/-! The completion step's errors (60_exceptions R263): it writes the status alone with a sub-code other than 0, or it ends
in success (10_state R22). -/

namespace Sys2Proof.Machine

/-- The completion step that takes `s` to `t` raised an error in `s` itself, with a sub-code, or ended in success. -/
def State.RaisesOrFinishes (s t : State) : Prop :=
  (∃ sub, sub ≠ .noError ∧ t = s.raiseError sub) ∨ ∃ u : State, t = u.finish

theorem State.raisesOrFinishes_raiseError (s : State) {sub : ESub} (h : sub ≠ .noError) :
    s.RaisesOrFinishes (s.raiseError sub) :=
  .inl ⟨sub, h, rfl⟩

theorem State.raisesOrFinishes_finish (s u : State) : s.RaisesOrFinishes u.finish :=
  .inr ⟨u, rfl⟩

theorem exec_raisesOrFinishes {i : Instr} {s t : State} (hi : IsCommand i) (h : exec i s = .next t) :
    s.RaisesOrFinishes t := by
  have err (sub : ESub) (hsub : sub ≠ .noError := by decide) : s.RaisesOrFinishes (s.raiseError sub) :=
    s.raisesOrFinishes_raiseError hsub
  have fin (u : State) : s.RaisesOrFinishes u.finish := s.raisesOrFinishes_finish u
  cases i with
  | csumClr =>
    cases h
    exact fin _
  | csumAcc =>
    rcases execCsumAcc_next h with rfl | ⟨-, rfl⟩
    exacts [err _, fin _]
  | csumCompute =>
    rcases execCsumCompute_next h with rfl | rfl | ⟨-, -, rfl⟩
    exacts [err _, err _, fin _]
  | csumVerify =>
    rcases execCsumVerify_next h with rfl | rfl | ⟨-, v, rfl⟩
    exacts [err _, err _, fin _]
  | frameEncode =>
    rcases execFrameEncode_next h with rfl | rfl | rfl | ⟨-, -, -, v, rfl⟩
    exacts [err _, err _, err _, fin _]
  | hdrPack =>
    rcases execHdrPack_next h with rfl | ⟨v, rfl⟩
    exacts [err _, fin _]
  | hdrUnpack =>
    rcases execHdrUnpack_next h with rfl | ⟨v, rfl⟩
    exacts [err _, fin _]
  | pktParse =>
    rcases execPktParse_next h with rfl | rfl | rfl | rfl | ⟨-, v, payload, -, -, rfl⟩
    exacts [err _, err _, err _, err _, fin _]
  | chash =>
    rcases execChash_next h with rfl | ⟨v, rfl⟩
    exacts [err _, fin _]
  | encMac =>
    rcases execEncMac_next h with rfl | rfl | rfl | ⟨-, -, -, rfl⟩
    exacts [err _, err _, err _, fin _]
  | gtxtBuild =>
    rcases execGtxtBuild_next h with rfl | rfl | rfl | ⟨-, -, -, rfl⟩
    exacts [err _, err _, err _, fin _]
  | gtxtPacket =>
    rcases execGtxtPacket_next h with rfl | rfl | rfl | rfl | ⟨-, -, -, -, rfl⟩
    exacts [err _, err _, err _, err _, fin _]
  | rxByte | rxAck | rxEos | rxRst => cases hi

/-- Both answers of the decoder, whatever the latched word: a command runs, a rejected word raises its sub-code. -/
theorem completeCommand_raisesOrFinishes {s t : State} (h : completeCommand s = .next t) : s.RaisesOrFinishes t := by
  cases hdec : decode .cmd s.cuCmd with
  | instr i =>
    rw [completeCommand, hdec] at h
    exact exec_raisesOrFinishes (isCommand_of_decodeCmd hdec) h
  | reject e =>
    rw [completeCommand_of_reject hdec] at h
    cases h
    exact s.raisesOrFinishes_raiseError (rejectCode_ne_noError e)

/-- Settles O53: what `raiseError` writes is the status alone, and `finish` writes the status of a success. -/
theorem encodingErrorIsPrecise : Obligations.EncodingErrorIsPrecise := by
  intro s t h
  rcases completeCommand_raisesOrFinishes h with ⟨sub, hsub, rfl⟩ | ⟨u, rfl⟩
  · exact .inl ⟨rfl, hsub, rfl⟩
  · exact .inr ⟨rfl, rfl, rfl, rfl⟩

end Sys2Proof.Machine
end

section
/-! Reset (70_reset R290, R291): power-on and a CTRL write with SRST = 1 are the same `State.resetBlock`, whose state meets the
invariant. -/

namespace Sys2Proof.Machine

/-- Settles O60: resetting the machine that was just reset leaves it so, and every reset meets the invariant. -/
theorem resetMeetsInvariant : Obligations.ResetMeetsInvariant :=
  State.reset.inv_resetBlock

theorem step_powerOn {s : State} {rest : List Input} (h : s.inputs = .powerOn :: rest) :
    step s = .next { s with inputs := rest }.resetBlock :=
  step_cons h

/-- The fields of STATUS after a reset are all 0. -/
theorem State.statusWord_resetBlock (s : State) : s.resetBlock.statusWord = 0 := by
  simp [State.statusWord_eq, ECode.bits, ESub.bits]

/-- The fields of RX_STATUS after a reset are all 0. -/
theorem Rx.statusWord_reset : Rx.reset.statusWord = 0 := by decide

/-- Settles O19: the power-on step is `State.resetBlock`, which sets every field, and an empty buffer has no defined byte. -/
theorem powerOnResetState : Obligations.PowerOnResetState := by
  intro s rest h
  refine ⟨_, step_powerOn h, rfl, rfl, rfl, rfl, State.statusWord_resetBlock _, rfl, rfl, rfl, rfl, rfl, rfl, rfl, rfl, ?_,
    Rx.statusWord_reset, rfl, rfl, rfl, rfl, rfl, rfl, rfl, rfl, fun k => ?_⟩
  · rw [State.resetBlock_secret]
    decide
  · exact ⟨Memory.byteAt_nil k, Memory.byteAt_nil k, Memory.byteAt_nil k⟩

/-- Settles O20: no hazard stops a CTRL write, and its SRST bit chooses between `State.resetBlock` and DSKIP. -/
theorem ctrlWriteResetsOrSetsDskip : Obligations.CtrlWriteResetsOrSetsDskip := by
  intro s rest v hb h
  have hwrite : step s = writeTarget .ctrl v { s with inputs := rest } :=
    step_write_nonOperand hb (by decide) rfl h rfl (by decide)
  refine ⟨fun hsrst => ?_, fun hsrst => ?_⟩
  · have hreset : step s = .next { s with inputs := rest }.resetBlock := by
      rw [hwrite, writeTarget, if_pos hsrst]
    have hpowerOn : step { s with inputs := .powerOn :: rest } = .next { s with inputs := rest }.resetBlock :=
      step_powerOn rfl
    exact ⟨hreset.trans hpowerOn.symm, _, hreset, rfl, rfl, rfl, rfl⟩
  · rw [hwrite, writeTarget, if_neg (Bool.eq_false_iff.mp hsrst)]

end Sys2Proof.Machine
end

section
/-! The accesses of a busy CU (70_reset R292-R294): the hazards, the outputs that read as free values, and everything that reads
as it would idle. -/

namespace Sys2Proof.Machine

section Access
variable {s : State} {rest : List Input} {off : Nat} {v : Word} {t : Target}

/-- A write that reaches an operand of the busy CU is the operand hazard (70_reset R292). -/
theorem step_write_operand_of_busy (hb : s.cfg.base % 4 = 0) (ho : off % 4 = 0) (ht : busTarget s.cfg off = some t)
    (h : s.inputs = .write .word (s.cfg.base + off) v :: rest) (hop : t.isOperand = true) (hbusy : s.cuBusy = true) :
    step s = .fault (.hazardViolation .operandWrite) := by
  rw [step_write h ((resolve_word hb ho).trans ht), if_pos ⟨hbusy, hop⟩]

/-- A read of an output of the busy CU is one fresh free word (70_reset R294; log 5, 11). -/
theorem step_read_anyWord (hb : s.cfg.base % 4 = 0) (ho : off % 4 = 0) (ht : busTarget s.cfg off = some t)
    (h : s.inputs = .read .word (s.cfg.base + off) :: rest) (hany : readTarget s t = .anyWord) :
    step s = .next { s with inputs := rest, lastRead := some (Config.freeWord s.draws), draws := s.draws + 1 } := by
  rw [step_read_word hb ho ht h, hany, State.deliver_anyWord]

/-- A read of what does not depend on whether the CU is busy answers as it would with the CU idle. -/
theorem step_read_of_busy_as_idle (hb : s.cfg.base % 4 = 0) (ho : off % 4 = 0) (ht : busTarget s.cfg off = some t)
    (h : s.inputs = .read .word (s.cfg.base + off) :: rest)
    (hr : readTarget { s with cuBusy := false } t = readTarget s t) :
    ∃ u, step s = .next u ∧ step { s with cuBusy := false } = .next { u with cuBusy := false } := by
  refine ⟨_, step_read_word hb ho ht h, ?_⟩
  rw [step_read_word (s := { s with cuBusy := false }) hb ho ht h, hr]
  unfold State.deliver
  split <;> rfl

end Access

/-- Settles O9: every one of these offsets maps to an operand. -/
theorem operandWriteWhileBusyFaults : Obligations.OperandWriteWhileBusyFaults := by
  intro s rest off v hb hsize hbusy ho hoff h
  rcases hoff with hreg | ⟨hlo, hhi⟩ | ⟨hlo, hhi⟩
  · simp only [List.mem_cons, List.not_mem_nil, or_false] at hreg
    rcases hreg with rfl | rfl | rfl | rfl <;> exact step_write_operand_of_busy hb ho rfl h rfl hbusy
  · exact step_write_operand_of_busy hb ho (busTarget_secret hlo hhi) h rfl hbusy
  · exact step_write_operand_of_busy hb ho (busTarget_src hlo (by omega) (by omega)) h rfl hbusy

/-- Settles O10: the write reaches `CMD`, which is no operand, so the hazard is its own. -/
theorem cmdWriteWhileBusyFaults : Obligations.CmdWriteWhileBusyFaults := by
  intro s rest v hb hbusy h
  have hcmd : resolve s.cfg .word (s.cfg.base + 0x008) = some .cmd := resolve_word hb (by decide)
  rw [step_write h hcmd, if_neg (by simp [Target.isOperand]), if_pos ⟨hbusy, rfl⟩]

/-- The outputs of the busy CU are `any` (70_reset R294). -/
theorem readTarget_output_of_busy {s : State} {t : Target} (hbusy : s.cuBusy = true)
    (ht : t ∈ [.result, .dstLen, .csum] ∨ ∃ i, t = .dst i) : readTarget s t = .anyWord := by
  simp only [List.mem_cons, List.not_mem_nil, or_false] at ht
  rcases ht with (rfl | rfl | rfl) | ⟨i, rfl⟩ <;> exact if_pos hbusy

/-- While busy, STATUS is BUSY alone: DONE and both codes were cleared when the command was latched (10_state R22). -/
theorem State.statusWord_of_busy {s : State} (hfits : s.StatusFits) (hbusy : s.cuBusy = true) :
    s.statusWord = 0x00000001 := by
  obtain ⟨hlatched, -, hsub⟩ := hfits
  obtain ⟨hdone, hcode⟩ := hlatched hbusy
  rw [s.statusWord_eq, hbusy, hdone, hcode, hsub.mpr hcode]
  rfl

/-- Settles O17: each offset's target is looked up; of the targets only the outputs read differently while busy, and a write
that resolves to nothing is a bus error before any hazard. -/
theorem busyAccesses : Obligations.BusyAccesses := by
  refine ⟨fun s rest off hl hfits hbusy ho h => ?_, fun s rest width addr v hl hbusy h => ?_⟩
  · have hb := hl.1
    refine ⟨fun hoff => ?_, ?_, ?_, fun hwin => ?_⟩
    · rcases hoff with hreg | ⟨hlo, hhi⟩
      · simp only [List.mem_cons, List.not_mem_nil, or_false] at hreg
        rcases hreg with rfl | rfl | rfl <;>
          exact step_read_anyWord hb ho rfl h (readTarget_output_of_busy hbusy (.inl (by simp)))
      · obtain ⟨k, rfl⟩ := Nat.exists_eq_add_of_le hlo
        exact step_read_anyWord hb ho (busTarget_dst_add hl (by omega)) h (readTarget_output_of_busy hbusy (.inr ⟨k, rfl⟩))
    · rintro rfl
      exact step_read_exact hb ho rfl h (congrArg _ (State.statusWord_of_busy hfits hbusy))
    · simp only [List.forall_mem_cons]
      refine ⟨?_, ?_, ?_, ?_, ?_, ?_, ?_, ?_, ?_, ?_, by simp⟩ <;>
        (rintro rfl; exact step_read_exact hb ho rfl h rfl)
    · rcases hwin with ⟨hlo, hhi⟩ | ⟨hlo, hhi⟩ | ⟨hlo, hhi⟩
      · exact step_read_of_busy_as_idle hb ho (busTarget_secret hlo hhi) h rfl
      · obtain ⟨k, rfl⟩ := Nat.exists_eq_add_of_le hlo
        exact step_read_of_busy_as_idle hb ho (busTarget_src_add hl (by omega)) h rfl
      · obtain ⟨k, rfl⟩ := Nat.exists_eq_add_of_le hlo
        exact step_read_of_busy_as_idle hb ho (busTarget_rxbuf_add hl (by omega)) h rfl
  · have hb := hl.1
    refine ⟨fun hbad => step_unmapped (.inr h) (resolve_narrow_or_misaligned hbad), ?_⟩
    rintro off rfl rfl ho
    refine ⟨fun hlo hhi => ?_, fun hlo hin _ => ?_⟩
    · exact step_unmapped (.inr h) ((resolve_word hb ho).trans (busTarget_behind_src hlo hhi))
    · obtain ⟨k, rfl⟩ := Nat.exists_eq_add_of_le hlo
      exact step_write_operand_of_busy hb ho (busTarget_src_add hl (by omega)) h rfl hbusy

end Sys2Proof.Machine
end

section
/-! How an instruction can stop (10_state R42, 70_reset R298; log 14): only at an undefined SRC byte it consumes, the first one in
the order of consumption. -/

namespace Sys2Proof.Machine

/-- The answer is a next state, or the fault of an undefined operand byte that `P` allows. -/
def StopsOnlyAt (P : Nat → Prop) (r : Result) : Prop :=
  (∃ t, r = .next t) ∨ ∃ k, P k ∧ r = .fault (.uninitialisedOperand k)

theorem stopsOnlyAt_next (P : Nat → Prop) (t : State) : StopsOnlyAt P (.next t) :=
  .inl ⟨t, rfl⟩

theorem StopsOnlyAt.ne_refused {P : Nat → Prop} {r : Result} (h : StopsOnlyAt P r) (why : Refusal) : r ≠ .refused why := by
  rcases h with ⟨t, rfl⟩ | ⟨k, -, rfl⟩
  exacts [nofun, nofun]

theorem StopsOnlyAt.of_fault {P : Nat → Prop} {r : Result} {f : Fault} (h : StopsOnlyAt P r) (hf : r = .fault f) :
    ∃ k, f = .uninitialisedOperand k ∧ P k := by
  subst hf
  rcases h with ⟨t, ht⟩ | ⟨k, hk, he⟩
  · cases ht
  · cases he
    exact ⟨k, rfl, hk⟩

section Checks
variable {P : Nat → Prop} {s : State} {r : Result}

theorem stopsOnlyAt_checkSrcLen (h : StopsOnlyAt P r) : StopsOnlyAt P (checkSrcLen s r) := by
  rcases checkSrcLen_cases s r with he | he <;> rw [he]
  exacts [stopsOnlyAt_next P _, h]

theorem stopsOnlyAt_checkSecretLen (h : StopsOnlyAt P r) : StopsOnlyAt P (checkSecretLen s r) := by
  rcases checkSecretLen_cases s r with he | he <;> rw [he]
  exacts [stopsOnlyAt_next P _, h]

theorem stopsOnlyAt_checkArg {bad : Bool} (h : bad = false → StopsOnlyAt P r) : StopsOnlyAt P (checkArg s bad r) := by
  rcases checkArg_cases s bad r with he | ⟨hok, he⟩ <;> rw [he]
  exacts [stopsOnlyAt_next P _, h hok]

theorem stopsOnlyAt_checkOut {len : Nat} (h : StopsOnlyAt P r) : StopsOnlyAt P (checkOut s len r) := by
  rcases checkOut_cases s len r with he | he <;> rw [he]
  exacts [stopsOnlyAt_next P _, h]

theorem stopsOnlyAt_ite {c : Prop} [Decidable c] {t : State} (h : ¬ c → StopsOnlyAt P r) :
    StopsOnlyAt P (if c then .next t else r) := by
  split
  exacts [stopsOnlyAt_next P _, h ‹_›]

/-- Consuming `SRC[i..j)` stops at its first undefined byte, and otherwise goes on with its bytes. -/
theorem stopsOnlyAt_consumeSrc {i j : Nat} {k : List Byte → Result} (hij : i ≤ j)
    (hundef : ∀ n, s.FirstUndefined i j n → P n) (hdef : s.SrcDefined i j → StopsOnlyAt P (k (s.srcBytes i j))) :
    StopsOnlyAt P (consumeSrc s i (j - i) k) := by
  have hcases := consumeSrc_cases s i (j - i) k
  rw [Nat.add_sub_of_le hij] at hcases
  rcases hcases with ⟨n, hn, he⟩ | ⟨hd, he⟩ <;> rw [he]
  exacts [.inr ⟨n, hundef n hn, rfl⟩, hdef hd]

theorem stopsOnlyAt_consumeByte {i : Nat} {k : Byte → Result} (hundef : Memory.byteAt s.src i = none → P i)
    (hdef : ∀ b, Memory.byteAt s.src i = some b → StopsOnlyAt P (k b)) : StopsOnlyAt P (consumeByte s i k) := by
  rcases consumeByte_cases s i k with ⟨hnone, he⟩ | ⟨b, hb, he⟩ <;> rw [he]
  exacts [.inr ⟨i, hundef hnone, rfl⟩, hdef b hb]

end Checks

/-- A command that reads all of its operand bytes and then completes. -/
theorem stopsOnlyAt_consumeSrcData {s : State} {f : List Byte → State} :
    StopsOnlyAt (s.FirstUndefined 0 s.srcLen.toNat) (consumeSrc s 0 s.srcLen.toNat fun d => .next (f d)) :=
  stopsOnlyAt_consumeSrc (Nat.zero_le _) (fun _ h => h) fun _ => stopsOnlyAt_next _ _

/-- The sender and then the message are `SRC[0..SRC_LEN)` by rising index, so the first undefined byte of the one consumed is the
first of the whole (44_group_text R201). -/
theorem stopsOnlyAt_writeText {s : State} (harg : s.arg1.toNat ≤ s.srcLen.toNat)
    (out : List Byte → List Byte → List Byte) :
    StopsOnlyAt (s.FirstUndefined 0 s.srcLen.toNat) (s.writeText out) := by
  refine stopsOnlyAt_consumeSrc (Nat.zero_le _) (fun n ⟨hle, hlt, hn⟩ => ⟨hle, hlt.trans_le harg, hn⟩) fun hsender => ?_
  refine stopsOnlyAt_consumeSrc harg (fun n ⟨_, hlt, hnone, hd⟩ => ⟨Nat.zero_le n, hlt, hnone, fun k _ hk => ?_⟩)
    fun _ => stopsOnlyAt_next _ _
  rcases Nat.lt_or_ge k s.arg1.toNat with hks | hkm
  exacts [hsender k (Nat.zero_le k) hks, hd k hkm hk]

/-- Every instruction but `PKT_PARSE` consumes `SRC[0..SRC_LEN)` by rising index, or nothing. -/
theorem exec_stopsOnlyAt_firstUndefined {i : Instr} (hi : i ≠ .pktParse) (s : State) :
    StopsOnlyAt (s.FirstUndefined 0 s.srcLen.toNat) (exec i s) := by
  cases i with
  | csumClr | rxByte | rxAck | rxEos | rxRst => exact stopsOnlyAt_next _ _
  | csumAcc => exact stopsOnlyAt_checkSrcLen stopsOnlyAt_consumeSrcData
  | csumCompute => exact stopsOnlyAt_checkSrcLen (stopsOnlyAt_checkOut stopsOnlyAt_consumeSrcData)
  | csumVerify => exact stopsOnlyAt_checkSrcLen (stopsOnlyAt_checkArg fun _ => stopsOnlyAt_consumeSrcData)
  | frameEncode =>
    exact stopsOnlyAt_checkSrcLen (stopsOnlyAt_ite fun _ => stopsOnlyAt_checkOut stopsOnlyAt_consumeSrcData)
  | hdrPack | hdrUnpack => exact stopsOnlyAt_checkArg fun _ => stopsOnlyAt_next _ _
  | pktParse => exact absurd rfl hi
  | chash => exact stopsOnlyAt_checkSecretLen (stopsOnlyAt_next _ _)
  | encMac =>
    exact stopsOnlyAt_checkSrcLen (stopsOnlyAt_checkSecretLen (stopsOnlyAt_checkOut stopsOnlyAt_consumeSrcData))
  | gtxtBuild =>
    exact stopsOnlyAt_checkSrcLen (stopsOnlyAt_checkArg fun harg =>
      stopsOnlyAt_checkOut (stopsOnlyAt_writeText (by simpa using harg) _))
  | gtxtPacket =>
    exact stopsOnlyAt_checkSrcLen (stopsOnlyAt_checkSecretLen (stopsOnlyAt_checkArg fun harg =>
      stopsOnlyAt_checkOut (stopsOnlyAt_writeText (by simpa using harg) _)))

/-- The byte `k` is the first undefined one that `PKT_PARSE` consumes: `SRC[1]`, then `SRC[0]`, then the payload
(42_packet_header R166; log 14). -/
def State.FirstUndefinedOfPacket (s : State) (k : Nat) : Prop :=
  (k = 1 ∧ Memory.byteAt s.src 1 = none) ∨
    ∃ pl : Byte, Memory.byteAt s.src 1 = some pl ∧
      ((k = 0 ∧ Memory.byteAt s.src 0 = none) ∨
        ((Memory.byteAt s.src 0).isSome = true ∧ s.FirstUndefined (2 + pl.toNat) s.srcLen.toNat k))

theorem State.FirstUndefinedOfPacket.undefined {s : State} {k : Nat} (h : s.FirstUndefinedOfPacket k) :
    Memory.byteAt s.src k = none := by
  rcases h with ⟨rfl, h⟩ | ⟨-, -, ⟨rfl, h⟩ | ⟨-, -, -, h, -⟩⟩
  exacts [h, h, h]

theorem execPktParse_stopsOnlyAt (s : State) : StopsOnlyAt s.FirstUndefinedOfPacket (execPktParse s) := by
  refine stopsOnlyAt_checkSrcLen <| stopsOnlyAt_ite fun hshort =>
    stopsOnlyAt_consumeByte (fun hnone => .inl ⟨rfl, hnone⟩) fun pl hpl => stopsOnlyAt_ite fun hpath =>
    stopsOnlyAt_checkOut <|
    stopsOnlyAt_consumeByte (fun hnone => .inr ⟨pl, hpl, .inl ⟨rfl, hnone⟩⟩) fun h hh => ?_
  rw [Nat.sub_sub]
  exact stopsOnlyAt_consumeSrc (by omega) (fun n hn => .inr ⟨pl, hpl, .inr ⟨by simp [hh], hn⟩⟩)
    fun _ => stopsOnlyAt_next _ _

/-- The byte whose fault stops an instruction is undefined. -/
theorem exec_stopsOnlyAt_undefined (i : Instr) (s : State) :
    StopsOnlyAt (fun k => Memory.byteAt s.src k = none) (exec i s) := by
  by_cases hi : i = .pktParse
  · subst hi
    exact (execPktParse_stopsOnlyAt s).imp_right fun ⟨k, hk, he⟩ => ⟨k, hk.undefined, he⟩
  · exact (exec_stopsOnlyAt_firstUndefined hi s).imp_right fun ⟨k, ⟨_, _, hnone, _⟩, he⟩ => ⟨k, hnone, he⟩

theorem completeCommand_stopsOnlyAt (s : State) :
    StopsOnlyAt (fun k => Memory.byteAt s.src k = none) (completeCommand s) := by
  cases hdec : decode .cmd s.cuCmd with
  | instr i =>
    rw [completeCommand, hdec]
    exact exec_stopsOnlyAt_undefined i s
  | reject e =>
    rw [completeCommand_of_reject hdec]
    exact stopsOnlyAt_next _ _

/-- However a completion step ends, the CU is idle and the command done (10_state R22). -/
theorem State.RaisesOrFinishes.idle_done {s t : State} (h : s.RaisesOrFinishes t) : t.cuBusy = false ∧ t.done = true := by
  rcases h with ⟨sub, -, rfl⟩ | ⟨u, rfl⟩
  exacts [⟨rfl, rfl⟩, ⟨rfl, rfl⟩]

/-- Settles O8: with the outside silent the step is the completion, which ends or stops at an undefined byte; the byte is the
first of `SRC[0..SRC_LEN)`, for `PKT_PARSE` of its own order. -/
theorem busyCommandCompletesOrNamesUndefinedByte : Obligations.BusyCommandCompletesOrNamesUndefinedByte := by
  refine ⟨fun s hbusy hsilent => ?_, fun s i => ⟨(exec_stopsOnlyAt_undefined i s).ne_refused, fun f hf => ?_⟩⟩
  · have hstep : step s = completeCommand s := by
      rw [step_nil hsilent, cuStep, if_pos hbusy]
    rw [hstep]
    rcases completeCommand_stopsOnlyAt s with ⟨t, ht⟩ | ⟨k, hnone, hfault⟩
    · exact .inl ⟨t, ht, (completeCommand_raisesOrFinishes ht).idle_done⟩
    · exact .inr ⟨k, hfault, hnone⟩
  · by_cases hi : i = .pktParse
    · subst hi
      obtain ⟨k, rfl, hk⟩ := (execPktParse_stopsOnlyAt s).of_fault hf
      exact ⟨k, rfl, fun hne => absurd rfl hne, fun _ => hk⟩
    · obtain ⟨k, rfl, hk⟩ := (exec_stopsOnlyAt_firstUndefined hi s).of_fault hf
      exact ⟨k, rfl, fun _ => hk, fun he => absurd he hi⟩

end Sys2Proof.Machine
end
